-- ==== Sys2Proof/Syntax.lean ====
section
/-! DEFINITION. The four operations of 30_encoding.md R55 and their textual form (R60). -/

namespace Sys2Proof

/-- The value of a set operation (00_scope.md R6, R7, 30_encoding.md R52). -/
inductive PinState where
  | low
  | high
  | highImpedance
  deriving DecidableEq, Repr

/-- The `STATE` field of a `setPin` (30_encoding.md R52). -/
def PinState.code : PinState → BitVec 2
  | .low => 0
  | .high => 1
  | .highImpedance => 2

/-- The operations, one constructor for each row of the opcode table (30_encoding.md R55). The pin is a number, not a word:
the spec only compares it and subtracts from it (00_scope.md R9). A well-formed pin fits the 8-bit field (log entry 17). -/
inductive Instr where
  /-- `getPin(pin)` -/
  | getpin (pin : Nat)
  /-- `setPin(pin, Low)` -/
  | setpinLow (pin : Nat)
  /-- `setPin(pin, High)` -/
  | setpinHigh (pin : Nat)
  /-- `setPin(pin, HighImpedance)` -/
  | setpinHiz (pin : Nat)
  deriving DecidableEq, Repr

/-- The one operand (30_encoding.md R53). -/
def Instr.pin : Instr → Nat
  | .getpin pin => pin
  | .setpinLow pin => pin
  | .setpinHigh pin => pin
  | .setpinHiz pin => pin

/-- The PinState of a `setPin`; a `getPin` has none (30_encoding.md R52). -/
def Instr.pinState : Instr → Option PinState
  | .getpin _ => none
  | .setpinLow _ => some .low
  | .setpinHigh _ => some .high
  | .setpinHiz _ => some .highImpedance

/-- The source's call syntax, which the spec keeps as the assembly language (30_encoding.md R60). -/
def Instr.callText : Instr → String
  | .getpin pin => "getPin(" ++ toString pin ++ ")"
  | .setpinLow pin => "setPin(" ++ toString pin ++ ", Low)"
  | .setpinHigh pin => "setPin(" ++ toString pin ++ ", High)"
  | .setpinHiz pin => "setPin(" ++ toString pin ++ ", HighImpedance)"

/-- The mnemonic form of the same (30_encoding.md R60). -/
def Instr.mnemonicText : Instr → String
  | .getpin pin => "GETPIN " ++ toString pin
  | .setpinLow pin => "SETPIN.LOW " ++ toString pin
  | .setpinHigh pin => "SETPIN.HIGH " ++ toString pin
  | .setpinHiz pin => "SETPIN.HIZ " ++ toString pin

end Sys2Proof
end

