-- ==== Sys2Proof/WellFormed.lean ====
section
/-! DEFINITION. Which instructions have an encoding. -/

namespace Sys2Proof

/-- The pin fits the unsigned 8-bit `PIN` field (30_encoding.md R53, R58). A pin outside the three intervals is well formed:
it is decoded, and reports `InvalidPin` (R55). -/
def Instr.wf (i : Instr) : Bool := decide (i.pin ≤ 255)

end Sys2Proof
end

