-- ==== Sys2Proof/Word.lean ====
section
/-! DEFINITION. The word types of the bus and of the command port. -/

namespace Sys2Proof

/-- `u16`: a device register, a bus transfer, a command word, a response (00_scope.md R6, R9). -/
abbrev Word := BitVec 16

/-- A bus address: `ADDR_W` is 16 (00_scope.md R6). -/
abbrev Addr := BitVec 16

end Sys2Proof
end

