-- ==== Sys2Proof/Decode.lean ====
section
/-! DEFINITION. The decoder of 30_encoding.md R57, total on words, and the encoder of R58. -/

namespace Sys2Proof

/-- Why a word is reserved, one name for each row of 30_encoding.md R56. -/
inductive DecodeError where
  /-- `ZERO ≠ 00000`. -/
  | zeroFieldSet
  /-- `OP = 0` with `STATE ≠ 00`. -/
  | getpinWithState
  /-- `OP = 1` with `STATE = 11`. -/
  | noSuchPinState
  deriving DecidableEq, Repr

/-- `ZERO`, bits 15:11 (30_encoding.md R50). -/
def zeroField (w : Word) : BitVec 5 := w.extractLsb' 11 5

/-- `OP`, bit 10 (30_encoding.md R51). -/
def opField (w : Word) : BitVec 1 := w.extractLsb' 10 1

/-- `STATE`, bits 9:8 (30_encoding.md R52). -/
def stateField (w : Word) : BitVec 2 := w.extractLsb' 8 2

/-- `PIN`, bits 7:0, used as it stands (30_encoding.md R53). -/
def pinField (w : Word) : Nat := (w.extractLsb' 0 8).toNat

/-- The decoder (30_encoding.md R57). A reserved word is refused under the name of the row of R56 that makes it so. -/
def decode (w : Word) : Except DecodeError Instr :=
  if zeroField w ≠ 0 then .error .zeroFieldSet
  else if opField w = 0 then
    if stateField w = 0 then .ok (.getpin (pinField w)) else .error .getpinWithState
  else if stateField w = PinState.low.code then .ok (.setpinLow (pinField w))
  else if stateField w = PinState.high.code then .ok (.setpinHigh (pinField w))
  else if stateField w = PinState.highImpedance.code then .ok (.setpinHiz (pinField w))
  else .error .noSuchPinState

/-- The `OP` field of an operation (30_encoding.md R51): 1 for a `setPin`. -/
def Instr.op (i : Instr) : BitVec 1 := if i.pinState.isSome then 1 else 0

/-- The `STATE` field of an operation: the PinState's number, `00` for a `getPin` (30_encoding.md R52). -/
def Instr.stateCode (i : Instr) : BitVec 2 := (i.pinState.map PinState.code).getD 0

/-- The command word of an operation (30_encoding.md R50, R58). -/
def encode (i : Instr) : Word := 0#5 ++ i.op ++ i.stateCode ++ BitVec.ofNat 8 i.pin

/-- The low `nbits` bits of a table word as one command word, none where they do not fit the one 16-bit command length
(30_encoding.md R50). -/
def commandOfTableWord (nbits w : Nat) : Option Word :=
  if w % 2 ^ nbits < 2 ^ 16 then some (BitVec.ofNat 16 (w % 2 ^ nbits)) else none

/-- The instruction the decoder reads from a word numbered as spec/opcode_table.json numbers it. A command is one whole
16-bit word handed over on the command port, so no byte order enters (20_memory.md R36, R48). -/
def decodeTableWord (nbits w : Nat) : Option Instr :=
  match commandOfTableWord nbits w with
  | none => none
  | some c =>
    match decode c with
    | .ok i => some i
    | .error _ => none

end Sys2Proof
end

