-- ==== Sys2Proof/Config.lean ====
section
/-! DEFINITION. What an implementation fixes (00_scope.md R7) and the free values. -/

namespace Sys2Proof

/-- The parameters the source leaves open (00_scope.md R7, decisions D5 and D8). The two proof fields are the constraints
the spec puts on them: a set of parameters that breaks one has no meaning (93_implementation_defined.md U14) and cannot be
written down. Log entries 1, 2 and 3. -/
structure Params where
  /-- `ADDR_A`, the combined register of pins 37 to 40. -/
  addrA : Addr
  /-- `ADDR_B`, the input register of pins 21 to 36. -/
  addrB : Addr
  /-- `ADDR_C`, the output register of pins 21 to 36. -/
  addrC : Addr
  /-- `ADDR_D`, the direction register of pins 21 to 36. -/
  addrD : Addr
  /-- `ADDR_E`, the input register of pins 5 to 20. -/
  addrE : Addr
  /-- `ADDR_F`, the output register of pins 5 to 20. -/
  addrF : Addr
  /-- `ADDR_G`, the direction register of pins 5 to 20. -/
  addrG : Addr
  /-- `SENTINEL`, the response data of every errored command. -/
  sentinel : Word
  /-- The seven addresses are pairwise distinct (20_memory.md R42). -/
  distinct : [addrA, addrB, addrC, addrD, addrE, addrF, addrG].Nodup
  /-- `SENTINEL ∉ {0x0000, 0x0001}` (00_scope.md R7). -/
  sentinel_out : sentinel ≠ 0x0000#16 ∧ sentinel ≠ 0x0001#16
  deriving DecidableEq, Repr

/-- The binding `State.reset` starts with. The addresses 0 to 6 are a DESIGN CHOICE, unsafe: the spec gives no number
(log entry 1). The sentinel is the spec's default `0xFFFF` (log entry 3). No statement rests on these values. -/
def Params.standard : Params where
  addrA := 0x0000#16
  addrB := 0x0001#16
  addrC := 0x0002#16
  addrD := 0x0003#16
  addrE := 0x0004#16
  addrF := 0x0005#16
  addrG := 0x0006#16
  sentinel := 0xFFFF#16
  distinct := by decide
  sentinel_out := by decide

/-- Free words, one for each draw: what `CMD`, `LATCH` and `RSP_DATA` hold after a reset (70_reset_and_hazards.md R112) and
what a device of which nothing is known answers to a `peek16` (93_implementation_defined.md U7). It has no body, so
nothing can be proved of its values. Log entries 12 and 13. -/
opaque Config.freeWord : Nat → Word

end Sys2Proof
end

