-- ==== Sys2Proof/Machine/State.lean ====
section
/-! DEFINITION. The state of the block, of the device registers and of the agents around them, as plain data. -/

namespace Sys2Proof.Machine

/-- The sequencer phase (10_state.md R15). -/
inductive Phase where
  /-- No command in progress; a command may be accepted. -/
  | idle
  /-- The first `peek16` is about to be issued. -/
  | rd1
  /-- The first `poke16` is about to be issued. -/
  | wr1
  /-- The second `peek16` (direction register) is about to be issued. -/
  | rd2
  /-- The second `poke16` (direction register) is about to be issued. -/
  | wr2
  /-- The response is valid and waits to be taken by `CONSUMER`. -/
  | resp
  deriving DecidableEq, Repr

/-- A bus master: the block, or any other one (00_scope.md R5). -/
inductive Master where
  | prm
  | other
  deriving DecidableEq, Repr

/-- The two bus transactions, with the word read or written (20_memory.md R34). -/
inductive BusOp where
  /-- `peek16(addr)` returned `value`. -/
  | peek (addr : Addr) (value : Word)
  /-- `poke16(addr, value)`. -/
  | poke (addr : Addr) (value : Word)
  deriving DecidableEq, Repr

/-- One entry of the bus trace (00_scope.md R12): who issued which transaction. -/
structure Txn where
  master : Master
  op : BusOp
  deriving DecidableEq, Repr

/-- A response: `RSP_DATA` and `RSP_ERR` (30_encoding.md R59). -/
structure Response where
  data : Word
  err : BitVec 2
  deriving DecidableEq, Repr

/-- Who holds the one bus lock (20_memory.md R46, R47). -/
inductive LockHolder where
  | free
  | consumer
  | other
  deriving DecidableEq, Repr

/-- What `CONSUMER` does (60_exceptions.md R107): `lock()`, present a command, take its response, `unlock()`. -/
inductive ConsumerOp where
  | lock
  | present (w : Word)
  | take
  | unlock
  deriving DecidableEq, Repr

/-- What `OTHER` does: bus transactions at any address (00_scope.md R5), and the lock, which all agents share (R110). -/
inductive OtherOp where
  | lock
  | peek (addr : Addr)
  | poke (addr : Addr) (value : Word)
  | unlock
  deriving DecidableEq, Repr

/-- What `WORLD` does: it sets `EXT(pin)` (10_state.md R29). -/
structure WorldOp where
  pin : Nat
  level : Bool
  deriving DecidableEq, Repr

/-- Whose slot a step is. -/
inductive Mover where
  | prm
  | consumer
  | other
  | world
  /-- The block's reset (70_reset_and_hazards.md R112, R114). -/
  | reset
  deriving DecidableEq, Repr

/-- What answers the bus transactions: the reference environment (10_state.md section 4), or a device of which nothing is
known, its coming answers listed (log entry 13). -/
inductive Device where
  | reference
  | arbitrary (answers : List Word)
  deriving DecidableEq, Repr

/-- One word of `BANK` at its address. The bus addresses 16-bit words (10_state.md R27), so a cell holds a word (log
entry 7). -/
abbrev Cell := Nat × Word

/-- `BANK` (10_state.md R28) as the list of the addresses whose word is not `Memory.unlisted`, addresses strictly rising. -/
abbrev Memory := List Cell

/-- What an address that is not listed reads as. The spec gives the registers no power-on value (10_state.md R33): 0 is a
DESIGN CHOICE, unsafe (log entry 5). -/
def Memory.unlisted : Word := 0x0000#16

/-- `EXT(p)` for the 36 valid pins (10_state.md R29): bit `i` is pin `5+i`, `21+i`, `37+i`. -/
structure Pads where
  pins5to20 : BitVec 16
  pins21to36 : BitVec 16
  pins37to40 : BitVec 4
  deriving DecidableEq, Repr

/-- The whole machine. -/
structure State where
  /-- The open parameters of 00_scope.md R7; no step changes them. -/
  params : Params
  /-- `PHASE` (10_state.md R15). -/
  phase : Phase
  /-- `CMD`, the command word accepted (10_state.md R14). -/
  cmd : Word
  /-- `LATCH`, the word of the most recent `peek16` of the current command (10_state.md R14). -/
  latch : Word
  /-- `RSP_DATA` (10_state.md R14). -/
  rspData : Word
  /-- `RSP_ERR` (10_state.md R14). -/
  rspErr : BitVec 2
  /-- `BANK`: the stored bits of the device registers and every other bus address (10_state.md R28). -/
  bank : Memory
  /-- `EXT` (10_state.md R29). -/
  ext : Pads
  /-- The bus lock (20_memory.md R46). -/
  lock : LockHolder
  /-- The command port: a command presented and not yet accepted (41_rmw_sequencer.md R77). -/
  port : Option Word
  /-- What is attached to the bus (70_reset_and_hazards.md R115). -/
  device : Device
  /-- The model's own: what `CONSUMER` does next, in order. -/
  consumer : List ConsumerOp
  /-- The model's own: what `OTHER` does next, in order. -/
  other : List OtherOp
  /-- The model's own: what `WORLD` does next, in order. -/
  world : List WorldOp
  /-- The model's own: whose slots the coming steps are. -/
  schedule : List Mover
  /-- The model's own: all bus transactions so far, in the total order of 20_memory.md R43. -/
  trace : List Txn
  /-- The model's own: the responses `CONSUMER` has taken (41_rmw_sequencer.md R83). -/
  responses : List Response
  /-- The model's own: how many free words have been drawn. -/
  freeCount : Nat
  deriving DecidableEq, Repr

/-- Why the machine stops. -/
inductive Fault where
  /-- Raised by a meaning, and by the block's slot, when `PHASE` is one that the command in `CMD` never reaches: 41_rmw_sequencer.md
  R76 has no transition there. Safe: no run from reset comes to it (log entry 16). -/
  | noTransition
  deriving DecidableEq, Repr

/-- Why the model gives no meaning. -/
inductive Refusal where
  /-- Raised by `exec` for an instruction that has no meaning yet. Safe. No arm raises it. -/
  | notModelled (mnemonic : String)
  deriving DecidableEq, Repr

/-- The machine after reset (10_state.md R33, 70_reset_and_hazards.md R112): `PHASE = IDLE`, `RSP_ERR = 0`, the lock not
held. The zeros of `CMD`, `LATCH` and `RSP_DATA`, the empty bank and the zero pads are DESIGN CHOICEs (log entries 4, 5, 6), and so
is the binding of the parameters (log entry 1). -/
def State.reset : State where
  params := Params.standard
  phase := .idle
  cmd := 0x0000#16
  latch := 0x0000#16
  rspData := 0x0000#16
  rspErr := 0#2
  bank := []
  ext := ⟨0, 0, 0⟩
  lock := .free
  port := none
  device := .reference
  consumer := []
  other := []
  world := []
  schedule := []
  trace := []
  responses := []
  freeCount := 0

end Sys2Proof.Machine
end

