-- ==== Sys2Proof/Machine/Flags.lean ====
section
/-! DEFINITION. The one status the block produces: the error code of the response (10_state.md R16). It has no flags. -/

namespace Sys2Proof.Machine

/-- `ERR_NONE` (60_exceptions.md R97). -/
def errNone : BitVec 2 := 0b00#2

/-- `ERR_INVALID_PIN` (60_exceptions.md R97). -/
def errInvalidPin : BitVec 2 := 0b01#2

/-- `ERR_RESERVED` (60_exceptions.md R97). -/
def errReserved : BitVec 2 := 0b10#2

/-- `BUSY`, the derived output (10_state.md R14). -/
def State.busy (s : State) : Bool := decide (s.phase ≠ .idle)

/-- What `CONSUMER` reads while `PHASE = RESP` (41_rmw_sequencer.md R83). -/
def State.response (s : State) : Response := ⟨s.rspData, s.rspErr⟩

end Sys2Proof.Machine
end

