-- ==== Sys2Proof/Machine/Operands.lean ====
section
/-! DEFINITION. From a pin number to its range, addresses, offsets and masks (40_pin_decode.md). Nothing here reads state. -/

namespace Sys2Proof.Machine

/-- The four classes of pin numbers (40_pin_decode.md R62). -/
inductive PinClass where
  | range37to40
  | range21to36
  | range5to20
  | invalid
  deriving DecidableEq, Repr

/-- `classify` (40_pin_decode.md R62), the checks in the order of the source (R63). -/
def classify (pin : Nat) : PinClass :=
  if 37 ≤ pin ∧ pin ≤ 40 then .range37to40
  else if 21 ≤ pin ∧ pin ≤ 36 then .range21to36
  else if 5 ≤ pin ∧ pin ≤ 20 then .range5to20
  else .invalid

/-- `valid(pin)` (40_pin_decode.md R62). -/
def validPin (pin : Nat) : Bool := decide (classify pin ≠ .invalid)

/-- `in_addr` (40_pin_decode.md R65); none where the spec leaves it undefined, for an invalid pin. -/
def inAddr (p : Params) (pin : Nat) : Option Addr :=
  match classify pin with
  | .range37to40 => some p.addrA
  | .range21to36 => some p.addrB
  | .range5to20 => some p.addrE
  | .invalid => none

/-- `out_addr` (40_pin_decode.md R66). -/
def outAddr (p : Params) (pin : Nat) : Option Addr :=
  match classify pin with
  | .range37to40 => some p.addrA
  | .range21to36 => some p.addrC
  | .range5to20 => some p.addrF
  | .invalid => none

/-- `dir_addr` (40_pin_decode.md R67). -/
def dirAddr (p : Params) (pin : Nat) : Option Addr :=
  match classify pin with
  | .range37to40 => some p.addrA
  | .range21to36 => some p.addrD
  | .range5to20 => some p.addrG
  | .invalid => none

/-- `dir_off` (40_pin_decode.md R68). -/
def dirOff (pin : Nat) : Option Nat :=
  match classify pin with
  | .range37to40 => some (pin - 33)
  | .range21to36 => some (pin - 21)
  | .range5to20 => some (pin - 5)
  | .invalid => none

/-- `out_off` (40_pin_decode.md R69). -/
def outOff (pin : Nat) : Option Nat :=
  match classify pin with
  | .range37to40 => some (pin - 29)
  | .range21to36 => some (pin - 21)
  | .range5to20 => some (pin - 5)
  | .invalid => none

/-- `in_off` (40_pin_decode.md R70, with `pin − 25` as 90_conflicts.md C1 resolves it). -/
def inOff (pin : Nat) : Option Nat :=
  match classify pin with
  | .range37to40 => some (pin - 25)
  | .range21to36 => some (pin - 21)
  | .range5to20 => some (pin - 5)
  | .invalid => none

/-- One bit of one bus word: the (address, bit) pair of 40_pin_decode.md R73. -/
structure BitLoc where
  addr : Addr
  off : Nat
  deriving DecidableEq, Repr

/-- An address and an offset as one place, where both are defined. -/
def locOf (a : Option Addr) (o : Option Nat) : Option BitLoc :=
  a.bind fun a => o.map fun o => ⟨a, o⟩

/-- Where the input bit of a pin is (10_state.md R26). -/
def inLoc (p : Params) (pin : Nat) : Option BitLoc := locOf (inAddr p pin) (inOff pin)

/-- Where the output bit of a pin is (10_state.md R26). -/
def outLoc (p : Params) (pin : Nat) : Option BitLoc := locOf (outAddr p pin) (outOff pin)

/-- Where the direction bit of a pin is (10_state.md R26). -/
def dirLoc (p : Params) (pin : Nat) : Option BitLoc := locOf (dirAddr p pin) (dirOff pin)

/-- `mask(off)` (40_pin_decode.md R71). -/
def mask (off : Nat) : Word := 1#16 <<< off

/-- `set(w, off)` (40_pin_decode.md R72). -/
def setBit (w : Word) (off : Nat) : Word := w ||| mask off

/-- `clr(w, off)` (40_pin_decode.md R72). -/
def clrBit (w : Word) (off : Nat) : Word := w &&& ~~~mask off

/-- `get(w, off)` (40_pin_decode.md R72). -/
def getBit (w : Word) (off : Nat) : BitVec 1 := ((w >>> off) &&& 1#16).setWidth 1

/-- `zext_16` (00_scope.md R9). -/
def zext16 (b : BitVec 1) : Word := b.setWidth 16

end Sys2Proof.Machine
end

