-- ==== Sys2Proof/Machine/Ops.lean ====
section
/-! DEFINITION. The operations the meanings share: the bank, the pads, the bus, the registers of the block, errors and the
response, and the command the block works on. -/

namespace Sys2Proof.Machine

/-! The bank as a canonical list. -/

/-- The word at an address: `BANK[a]` (10_state.md R28). -/
def Memory.read : Memory → Nat → Word
  | [], _ => Memory.unlisted
  | (k, v) :: m, a => if k = a then v else Memory.read m a

/-- The list without an address. -/
def Memory.erase (m : Memory) (a : Nat) : Memory := m.filter fun c => decide (c.1 ≠ a)

/-- A cell put where its address belongs. -/
def Memory.insert (a : Nat) (v : Word) : Memory → Memory
  | [] => [(a, v)]
  | (k, w) :: m => if a < k then (a, v) :: (k, w) :: m else (k, w) :: Memory.insert a v m

/-- `BANK[a] <- v`, in canonical form: the word that an unlisted address reads as is not listed. -/
def Memory.write (m : Memory) (a : Nat) (v : Word) : Memory :=
  if v = Memory.unlisted then m.erase a else Memory.insert a v (m.erase a)

/-- The canonical form: addresses strictly rising and inside the bus space, no cell that says what an unlisted address reads as. -/
def Memory.wf (m : Memory) : Bool :=
  decide (m.Pairwise fun x y => x.1 < y.1) && m.all fun c => decide (c.1 < 2 ^ 16) && decide (c.2 ≠ Memory.unlisted)

/-- The stored word at a bus address. -/
def State.bankRead (s : State) (a : Addr) : Word := s.bank.read a.toNat

/-- A word stored whole at a bus address. -/
def State.bankWrite (a : Addr) (v : Word) (s : State) : State := { s with bank := s.bank.write a.toNat v }

/-! The pads (10_state.md R29). -/

/-- A stored bit of `BANK`. -/
def State.storedBit (s : State) (l : BitLoc) : Bool := (s.bankRead l.addr).getLsbD l.off

/-- The direction bit of a pin, as stored; an invalid pin has none. -/
def State.dirBit (s : State) (pin : Nat) : Bool := ((dirLoc s.params pin).map s.storedBit).getD false

/-- The output bit of a pin, as stored; an invalid pin has none. -/
def State.outBit (s : State) (pin : Nat) : Bool := ((outLoc s.params pin).map s.storedBit).getD false

/-- `EXT(pin)`; a number that is no pin has no pad. -/
def State.extBit (s : State) (pin : Nat) : Bool :=
  match classify pin with
  | .range37to40 => s.ext.pins37to40.getLsbD (pin - 37)
  | .range21to36 => s.ext.pins21to36.getLsbD (pin - 21)
  | .range5to20 => s.ext.pins5to20.getLsbD (pin - 5)
  | .invalid => false

/-- `LINE(pin)` (10_state.md R29): an output pin drives its output bit, an input pin follows the outside. Contention is left
out, as the spec's decision D14 does (log entry 20). -/
def State.line (s : State) (pin : Nat) : Bool := if s.dirBit pin then s.outBit pin else s.extBit pin

/-- The lines of several pins at once, bit by bit as `LINE` (10_state.md R29). -/
def lines {n : Nat} (dir out ext : BitVec n) : BitVec n := (dir &&& out) ||| (~~~dir &&& ext)

/-- One bit of a word put to a level. -/
def putBit {n : Nat} (x : BitVec n) (i : Nat) (level : Bool) : BitVec n :=
  if level then x ||| (1#n <<< i) else x &&& ~~~(1#n <<< i)

/-- `EXT(pin)` set to a level (10_state.md R29); no pad changes for a number that is no pin (log entry 25). -/
def Pads.set (x : Pads) (pin : Nat) (level : Bool) : Pads :=
  match classify pin with
  | .range37to40 => { x with pins37to40 := putBit x.pins37to40 (pin - 37) level }
  | .range21to36 => { x with pins21to36 := putBit x.pins21to36 (pin - 21) level }
  | .range5to20 => { x with pins5to20 := putBit x.pins5to20 (pin - 5) level }
  | .invalid => x

/-! The reference environment (10_state.md R30, R31). -/

/-- The input field `A.IN`: the lines of pins 40 down to 37 (10_state.md R30). -/
def State.linesA (s : State) : BitVec 4 :=
  lines ((s.bankRead s.params.addrA).extractLsb' 4 4) ((s.bankRead s.params.addrA).extractLsb' 8 4) s.ext.pins37to40

/-- Register `B`: the lines of pins 21 to 36 (10_state.md R30). -/
def State.linesB (s : State) : Word :=
  lines (s.bankRead s.params.addrD) (s.bankRead s.params.addrC) s.ext.pins21to36

/-- Register `E`: the lines of pins 5 to 20 (10_state.md R30). -/
def State.linesE (s : State) : Word :=
  lines (s.bankRead s.params.addrG) (s.bankRead s.params.addrF) s.ext.pins5to20

/-- What `peek16(a)` returns in the reference environment (10_state.md R30). -/
def State.refPeek (s : State) (a : Addr) : Word :=
  if a = s.params.addrA then s.linesA ++ (s.bankRead a).extractLsb' 0 12
  else if a = s.params.addrB then s.linesB
  else if a = s.params.addrE then s.linesE
  else s.bankRead a

/-- What `poke16(a, v)` does in the reference environment (10_state.md R31): the read-only bits `A[15:12]`, `B` and `E`
ignore it. -/
def State.refPoke (a : Addr) (v : Word) (s : State) : State :=
  if a = s.params.addrA then
    s.bankWrite a ((s.bankRead a).extractLsb' 12 4 ++ v.extractLsb' 0 12)
  else if a = s.params.addrB ∨ a = s.params.addrE then s
  else s.bankWrite a v

/-- A read-modify-write in the reference environment with nothing between its halves (41_rmw_sequencer.md R75). -/
def State.rmw (a : Addr) (f : Word → Word) (s : State) : State := s.refPoke a (f (s.refPeek a))

/-! Bus transactions (20_memory.md R34, R40): each is one event of the trace and always completes (R41, log entry 22). -/

/-- The word the attached device answers to `peek16(a)`. Reading the reference environment changes nothing (10_state.md R30).
A device of which nothing is known answers from its list, and then with free words (log entry 13). -/
def State.answer (a : Addr) (s : State) : Word × State :=
  match s.device with
  | .reference => (s.refPeek a, s)
  | .arbitrary [] => (Config.freeWord s.freeCount, { s with freeCount := s.freeCount + 1 })
  | .arbitrary (w :: ws) => (w, { s with device := .arbitrary ws })

/-- A transaction added to the trace (00_scope.md R12). -/
def State.record (who : Master) (op : BusOp) (s : State) : State := { s with trace := s.trace ++ [⟨who, op⟩] }

/-- `peek16(a)` by a master: the word answered, and the state after. -/
def State.busPeek (who : Master) (a : Addr) (s : State) : Word × State :=
  ((s.answer a).1, (s.answer a).2.record who (.peek a (s.answer a).1))

/-- `poke16(a, v)` by a master. What an arbitrary device does with a write is not known; its answers are free anyway. -/
def State.busPoke (who : Master) (a : Addr) (v : Word) (s : State) : State :=
  (match s.device with
    | .reference => s.refPoke a v
    | .arbitrary _ => s).record who (.poke a v)

/-! The registers of the block (10_state.md R14). -/

/-- `PHASE <- ph`. -/
def State.goto (ph : Phase) (s : State) : State := { s with phase := ph }

/-- `LATCH <- MemRead(a, 2)` (41_rmw_sequencer.md R79, R81). -/
def State.readLatch (a : Addr) (s : State) : State :=
  { (s.busPeek .prm a).2 with latch := (s.busPeek .prm a).1 }

/-- Entry to `RESP` with a response (10_state.md R14). -/
def State.respond (d : Word) (e : BitVec 2) (s : State) : State :=
  { s with rspData := d, rspErr := e, phase := .resp }

/-! Errors: taking one, and the return from it (60_exceptions.md R98, R99, R102). There is no trap (R101). -/

/-- The effect shared by both errors: the code, the sentinel, `PHASE <- RESP`. -/
def State.raiseError (e : BitVec 2) (s : State) : State := s.respond s.params.sentinel e

/-- `raise InvalidPin` (60_exceptions.md R98). -/
def State.raiseInvalidPin (s : State) : State := s.raiseError errInvalidPin

/-- `raise ReservedEncoding` (60_exceptions.md R99). -/
def State.raiseReserved (s : State) : State := s.raiseError errReserved

/-- The response step (41_rmw_sequencer.md R83), the same after an error as after a success (60_exceptions.md R102). -/
def State.takeResponse (s : State) : State :=
  { s with responses := s.responses ++ [s.response], phase := .idle }

/-! The accept step and the command the block works on (41_rmw_sequencer.md R77, R78). -/

/-- `CMD <- c`; the port is free again. -/
def State.loadCommand (c : Word) (s : State) : State := { s with cmd := c, port := none }

/-- The accept step for a defined operation (41_rmw_sequencer.md R77). -/
def State.accept (c : Word) (pin : Nat) (s : State) : State :=
  if validPin pin then (s.loadCommand c).goto .rd1 else (s.loadCommand c).raiseInvalidPin

/-- The accept step for a reserved word (41_rmw_sequencer.md R77). -/
def State.acceptReserved (c : Word) (s : State) : State := (s.loadCommand c).raiseReserved

/-- What the block's slot has to do. -/
inductive Fetched where
  /-- Nothing: no command is presented, or the response waits to be taken. -/
  | wait
  /-- A step of this command. -/
  | command (i : Instr)
  /-- The acceptance of a reserved word. -/
  | reserved (w : Word)
  /-- `PHASE` says a command is in progress, and `CMD` holds none. -/
  | stuck
  deriving DecidableEq, Repr

/-- In `IDLE` the block looks at the command port (41_rmw_sequencer.md R77), in the phases of a command at `CMD` (R78), and in
`RESP` it holds the response (R83). Decoding looks at the word alone (30_encoding.md R57). -/
def State.fetch (s : State) : Fetched :=
  match s.phase with
  | .idle =>
    match s.port with
    | none => .wait
    | some w =>
      match decode w with
      | .ok i => .command i
      | .error _ => .reserved w
  | .resp => .wait
  | .rd1 | .wr1 | .rd2 | .wr2 =>
    match decode s.cmd with
    | .ok i => .command i
    | .error _ => .stuck

end Sys2Proof.Machine
end

