-- ==== Sys2Proof/Machine/Agents.lean ====
section
/-! DEFINITION. The steps of the agents around the block: `CONSUMER`, `OTHER`, `WORLD`, and the block's reset. A slot that an
agent cannot use passes with the state unchanged, and what the agent means to do stays next (log entry 9). -/

namespace Sys2Proof.Machine

/-- `lock()` by `CONSUMER`: granted when nobody holds the lock, waits otherwise (20_memory.md R47, log entry 11). -/
def consumerLock (rest : List ConsumerOp) (s : State) : State :=
  match s.lock with
  | .free => { s with lock := .consumer, consumer := rest }
  | .consumer => s
  | .other => s

/-- `unlock()` by `CONSUMER`; it releases no lock but its own (log entry 11). -/
def consumerUnlock (rest : List ConsumerOp) (s : State) : State :=
  { s with lock := if s.lock = .consumer then .free else s.lock, consumer := rest }

/-- A command put on the command port. It waits there, not lost, until the block is idle (41_rmw_sequencer.md R77); a second
one waits until the port is free. -/
def consumerPresent (w : Word) (rest : List ConsumerOp) (s : State) : State :=
  match s.port with
  | none => { s with port := some w, consumer := rest }
  | some _ => s

/-- The response taken, once there is one (41_rmw_sequencer.md R83). -/
def consumerTake (rest : List ConsumerOp) (s : State) : State :=
  if s.phase = .resp then { s.takeResponse with consumer := rest } else s

/-- A slot of `CONSUMER`. With nothing left to do it takes a response that waits (log entry 24). -/
def consumerStep (s : State) : State :=
  match s.consumer with
  | [] => consumerTake [] s
  | .lock :: rest => consumerLock rest s
  | .present w :: rest => consumerPresent w rest s
  | .take :: rest => consumerTake rest s
  | .unlock :: rest => consumerUnlock rest s

/-- `lock()` by `OTHER`. -/
def otherLock (rest : List OtherOp) (s : State) : State :=
  match s.lock with
  | .free => { s with lock := .other, other := rest }
  | .consumer => s
  | .other => s

/-- `unlock()` by `OTHER`; it releases no lock but its own (log entry 11). -/
def otherUnlock (rest : List OtherOp) (s : State) : State :=
  { s with lock := if s.lock = .other then .free else s.lock, other := rest }

/-- A bus transaction of `OTHER`: excluded, so waiting, while `CONSUMER` holds the lock (20_memory.md R46, log entry 10). -/
def otherBus (transaction : State → State) (s : State) : State :=
  if s.lock = .consumer then s else transaction s

/-- A slot of `OTHER` (00_scope.md R5). -/
def otherStep (s : State) : State :=
  match s.other with
  | [] => s
  | .lock :: rest => otherLock rest s
  | .peek a :: rest => otherBus (fun s => { (s.busPeek .other a).2 with other := rest }) s
  | .poke a v :: rest => otherBus (fun s => { s.busPoke .other a v with other := rest }) s
  | .unlock :: rest => otherUnlock rest s

/-- A slot of `WORLD`: one pad takes a level, lock or no lock (10_state.md R29, 20_memory.md R46). -/
def worldStep (s : State) : State :=
  match s.world with
  | [] => s
  | o :: rest => { s with ext := s.ext.set o.pin o.level, world := rest }

/-- Reset of the block (70_reset_and_hazards.md R112, R114): `PHASE <- IDLE`, `RSP_ERR <- 0`, the command abandoned;
`CMD`, `LATCH` and `RSP_DATA` unspecified, so free words (log entry 12). The device registers, the pads, the lock and a command
not yet accepted stay. -/
def resetBlock (s : State) : State :=
  { s with
    phase := .idle
    rspErr := errNone
    cmd := Config.freeWord s.freeCount
    latch := Config.freeWord (s.freeCount + 1)
    rspData := Config.freeWord (s.freeCount + 2)
    freeCount := s.freeCount + 3 }

/-- Who moves when the schedule is used up: `CONSUMER` where the block waits for it, the block elsewhere (log entry 8). -/
def State.defaultMover (s : State) : Mover :=
  match s.phase with
  | .idle => if s.port.isSome then .prm else .consumer
  | .resp => .consumer
  | .rd1 | .wr1 | .rd2 | .wr2 => .prm

end Sys2Proof.Machine
end

