-- ==== Sys2Proof/Machine/GetPin.lean ====
section
/-! DEFINITION. The `getPin` family (43_getpin.md), one phase of the sequencer a step (41_rmw_sequencer.md R76). -/

namespace Sys2Proof.Machine

/-- `GETPIN pin` (43_getpin.md R94, R95; 41_rmw_sequencer.md R77, R79, R83): one `peek16` of the input register, the input
bit zero-extended as the result, no write. -/
def execGetpin (pin : Nat) (s : State) : Host.Outcome State Fault Refusal :=
  match s.phase with
  | .idle => .next (s.accept (encode (.getpin pin)) pin)
  | .rd1 =>
    match inLoc s.params pin with
    | some l => .next ((s.readLatch l.addr).respond (zext16 (getBit (s.readLatch l.addr).latch l.off)) errNone)
    | none => .fault .noTransition
  | .wr1 | .rd2 | .wr2 => .fault .noTransition
  | .resp => .next s

end Sys2Proof.Machine
end

