-- ==== Sys2Proof/Machine/SetPin.lean ====
section
/-! DEFINITION. The `setPin` family (42_setpin.md), one phase of the sequencer a step (41_rmw_sequencer.md R76). Every write
is the second half of a read-modify-write (R75) and is issued whether or not the word changed (R85). -/

namespace Sys2Proof.Machine

/-- `SETPIN.HIZ pin` (42_setpin.md R89, R93; 41_rmw_sequencer.md R77, R79, R80): the direction bit cleared by one
read-modify-write, the output bit left alone. -/
def execSetpinHiz (pin : Nat) (s : State) : Host.Outcome State Fault Refusal :=
  match s.phase with
  | .idle => .next (s.accept (encode (.setpinHiz pin)) pin)
  | .rd1 =>
    match dirLoc s.params pin with
    | some d => .next ((s.readLatch d.addr).goto .wr1)
    | none => .fault .noTransition
  | .wr1 =>
    match dirLoc s.params pin with
    | some d => .next ((s.busPoke .prm d.addr (clrBit s.latch d.off)).respond 0x0000#16 errNone)
    | none => .fault .noTransition
  | .rd2 | .wr2 => .fault .noTransition
  | .resp => .next s

/-- `SETPIN.LOW pin` (42_setpin.md R90, R93; 41_rmw_sequencer.md R77, R79 to R82): the output bit cleared, then the direction
bit set, two read-modify-writes in that order (R87), never merged (R86). -/
def execSetpinLow (pin : Nat) (s : State) : Host.Outcome State Fault Refusal :=
  match s.phase with
  | .idle => .next (s.accept (encode (.setpinLow pin)) pin)
  | .rd1 =>
    match outLoc s.params pin with
    | some o => .next ((s.readLatch o.addr).goto .wr1)
    | none => .fault .noTransition
  | .wr1 =>
    match outLoc s.params pin with
    | some o => .next ((s.busPoke .prm o.addr (clrBit s.latch o.off)).goto .rd2)
    | none => .fault .noTransition
  | .rd2 =>
    match dirLoc s.params pin with
    | some d => .next ((s.readLatch d.addr).goto .wr2)
    | none => .fault .noTransition
  | .wr2 =>
    match dirLoc s.params pin with
    | some d => .next ((s.busPoke .prm d.addr (setBit s.latch d.off)).respond 0x0000#16 errNone)
    | none => .fault .noTransition
  | .resp => .next s

/-- `SETPIN.HIGH pin` (42_setpin.md R91, R93; 41_rmw_sequencer.md R77, R79 to R82): the output bit set, then the direction
bit set, two read-modify-writes in that order (R87), never merged (R86). -/
def execSetpinHigh (pin : Nat) (s : State) : Host.Outcome State Fault Refusal :=
  match s.phase with
  | .idle => .next (s.accept (encode (.setpinHigh pin)) pin)
  | .rd1 =>
    match outLoc s.params pin with
    | some o => .next ((s.readLatch o.addr).goto .wr1)
    | none => .fault .noTransition
  | .wr1 =>
    match outLoc s.params pin with
    | some o => .next ((s.busPoke .prm o.addr (setBit s.latch o.off)).goto .rd2)
    | none => .fault .noTransition
  | .rd2 =>
    match dirLoc s.params pin with
    | some d => .next ((s.readLatch d.addr).goto .wr2)
    | none => .fault .noTransition
  | .wr2 =>
    match dirLoc s.params pin with
    | some d => .next ((s.busPoke .prm d.addr (setBit s.latch d.off)).respond 0x0000#16 errNone)
    | none => .fault .noTransition
  | .resp => .next s

end Sys2Proof.Machine
end

