-- ==== Sys2Proof/Machine/Dispatch.lean ====
section
/-! DEFINITION. One arm for each operation of the opcode table. -/

namespace Sys2Proof.Machine

def exec (i : Instr) (s : State) : Host.Outcome State Fault Refusal :=
  match i with
  | .getpin pin => Sys2Proof.Machine.execGetpin pin s
  | .setpinLow pin => Sys2Proof.Machine.execSetpinLow pin s
  | .setpinHigh pin => Sys2Proof.Machine.execSetpinHigh pin s
  | .setpinHiz pin => Sys2Proof.Machine.execSetpinHiz pin s

end Sys2Proof.Machine
end

