-- ==== Sys2Proof/Machine/Slots.lean ====
section
/-! DEFINITION. One slot of one agent (00_scope.md R5, R11). -/

namespace Sys2Proof.Machine

/-- A slot of the block: a step of the command it works on, or the acceptance of a reserved word, or nothing. -/
def blockStep (s : State) : Host.Outcome State Fault Refusal :=
  match s.fetch with
  | .wait => .next s
  | .command i => exec i s
  | .reserved w => .next (s.acceptReserved w)
  | .stuck => .fault .noTransition

/-- The slot of the agent that moves. -/
def slotStep (m : Mover) (s : State) : Host.Outcome State Fault Refusal :=
  match m with
  | .prm => blockStep s
  | .consumer => .next (consumerStep s)
  | .other => .next (otherStep s)
  | .world => .next (worldStep s)
  | .reset => .next (resetBlock s)

/-- The next mover, and the state with its slot taken off the schedule. -/
def State.nextSlot (s : State) : Mover × State :=
  match s.schedule with
  | [] => (s.defaultMover, s)
  | m :: rest => (m, { s with schedule := rest })

/-- A command on the port of an idle block whose slot comes next. Its slot is put in front of the schedule where there is
one; with none, the block moves next anyway. -/
def State.placeCommand (c : Word) (s : State) : State :=
  { s with
    phase := .idle
    port := some c
    schedule := match s.schedule with
      | [] => []
      | m :: rest => .prm :: m :: rest }

end Sys2Proof.Machine
end

