-- ==== Sys2Proof/Machine/Step.lean ====
section
/-! DEFINITION. One step of the machine: one slot of one agent, at most one bus transaction (20_memory.md R40). -/

namespace Sys2Proof.Machine

/-- The step: the slot that the schedule gives next, or the default one (log entry 8). -/
def step (s : State) : Host.Outcome State Fault Refusal := slotStep s.nextSlot.1 s.nextSlot.2

/-- The command of a table word placed where the next step accepts it (log entry 19). -/
def State.withFetchWord (s : State) (nbits w : Nat) : State :=
  s.placeCommand (BitVec.ofNat 16 (w % 2 ^ nbits))

end Sys2Proof.Machine
end

