-- ==== Sys2Proof/Machine/BigStep.lean ====
section
/-! DEFINITION. The big-step form of the four operations (00_scope.md R11): the whole effect of a command as one function. The
step does not use it; claims compare the two. -/

namespace Sys2Proof.Machine

/-- The block alone (41_rmw_sequencer.md R88, 30_encoding.md R59): from a command and the words `w1`, `w2` that its reads
return, the transactions in order and the response. -/
def bigStep (p : Params) (i : Instr) (w1 w2 : Word) : List BusOp × Response :=
  match i with
  | .getpin pin =>
    match inLoc p pin with
    | some l => ([.peek l.addr w1], ⟨zext16 (getBit w1 l.off), errNone⟩)
    | none => ([], ⟨p.sentinel, errInvalidPin⟩)
  | .setpinHiz pin =>
    match dirLoc p pin with
    | some d => ([.peek d.addr w1, .poke d.addr (clrBit w1 d.off)], ⟨0x0000#16, errNone⟩)
    | none => ([], ⟨p.sentinel, errInvalidPin⟩)
  | .setpinLow pin =>
    match outLoc p pin, dirLoc p pin with
    | some o, some d =>
      ([.peek o.addr w1, .poke o.addr (clrBit w1 o.off), .peek d.addr w2, .poke d.addr (setBit w2 d.off)],
        ⟨0x0000#16, errNone⟩)
    | _, _ => ([], ⟨p.sentinel, errInvalidPin⟩)
  | .setpinHigh pin =>
    match outLoc p pin, dirLoc p pin with
    | some o, some d =>
      ([.peek o.addr w1, .poke o.addr (setBit w1 o.off), .peek d.addr w2, .poke d.addr (setBit w2 d.off)],
        ⟨0x0000#16, errNone⟩)
    | _, _ => ([], ⟨p.sentinel, errInvalidPin⟩)

/-- The effect of a command on the reference environment when nothing else touches the bus (41_rmw_sequencer.md R84,
42_setpin.md R89 to R91). -/
def bigEffect (i : Instr) (s : State) : State :=
  match i with
  | .getpin _ => s
  | .setpinHiz pin =>
    match dirLoc s.params pin with
    | some d => s.rmw d.addr (clrBit · d.off)
    | none => s
  | .setpinLow pin =>
    match outLoc s.params pin, dirLoc s.params pin with
    | some o, some d => (s.rmw o.addr (clrBit · o.off)).rmw d.addr (setBit · d.off)
    | _, _ => s
  | .setpinHigh pin =>
    match outLoc s.params pin, dirLoc s.params pin with
    | some o, some d => (s.rmw o.addr (setBit · o.off)).rmw d.addr (setBit · d.off)
    | _, _ => s

/-- How many steps of the block a valid command takes, its acceptance and one for each transaction
(41_rmw_sequencer.md R88, 70_reset_and_hazards.md R127). -/
def blockSteps : Instr → Nat
  | .getpin _ => 2
  | .setpinHiz _ => 3
  | .setpinLow _ => 5
  | .setpinHigh _ => 5

end Sys2Proof.Machine
end

