-- ==== Sys2Proof/Safety.lean ====
section
/-! DEFINITION. The terms claims are stated in: runs, what is observed of them, and what a state must satisfy to be one that
the machine can come to. -/

namespace Sys2Proof.Machine

/-- `n` steps, stopping at the first fault or refusal. -/
def run : Nat → State → Host.Outcome State Fault Refusal
  | 0, s => .next s
  | n + 1, s =>
    match step s with
    | .next t => run n t
    | .fault f => .fault f
    | .refused r => .refused r

/-- The phases a command goes through while it is in progress (41_rmw_sequencer.md R76). -/
def phaseOf : Instr → Phase → Bool
  | .getpin _, .rd1 => true
  | .setpinHiz _, .rd1 | .setpinHiz _, .wr1 => true
  | .setpinLow _, .rd1 | .setpinLow _, .wr1 | .setpinLow _, .rd2 | .setpinLow _, .wr2 => true
  | .setpinHigh _, .rd1 | .setpinHigh _, .wr1 | .setpinHigh _, .rd2 | .setpinHigh _, .wr2 => true
  | _, _ => false

/-- `PHASE` is one that the command in `CMD` reaches: a defined operation on a valid pin, in one of its phases. -/
def State.phaseOk (s : State) : Bool :=
  match s.phase with
  | .idle | .resp => true
  | .rd1 | .wr1 | .rd2 | .wr2 =>
    match decode s.cmd with
    | .ok i => validPin i.pin && phaseOf i s.phase
    | .error _ => false

/-- A response that 30_encoding.md R59 allows for a command word. -/
def responseFits (p : Params) (c : Word) (r : Response) : Bool :=
  match decode c with
  | .error _ => decide (r = ⟨p.sentinel, errReserved⟩)
  | .ok i =>
    if validPin i.pin then
      match i with
      | .getpin _ => decide (r = ⟨0x0000#16, errNone⟩) || decide (r = ⟨0x0001#16, errNone⟩)
      | .setpinLow _ | .setpinHigh _ | .setpinHiz _ => decide (r = ⟨0x0000#16, errNone⟩)
    else decide (r = ⟨p.sentinel, errInvalidPin⟩)

/-- In `RESP` the response is one that 30_encoding.md R59 gives the command in `CMD`. -/
def State.responseOk (s : State) : Bool :=
  match s.phase with
  | .resp => responseFits s.params s.cmd s.response
  | .idle | .rd1 | .wr1 | .rd2 | .wr2 => true

/-- The invariant of the machine: the bank is canonical, `RSP_ERR` is never `11` (60_exceptions.md R97), `PHASE` and `CMD` agree
(41_rmw_sequencer.md R76), a response is the one its command has (30_encoding.md R59). -/
def State.inv (s : State) : Bool :=
  s.bank.wf && decide (s.rspErr ≠ 0b11#2) && s.phaseOk && s.responseOk

/-- What 20_memory.md R35 lets the block present to the bus: the seven addresses, and no write of `B` or `E`. -/
def allowedTxn (p : Params) : BusOp → Bool
  | .peek a _ => decide (a ∈ [p.addrA, p.addrB, p.addrC, p.addrD, p.addrE, p.addrF, p.addrG])
  | .poke a _ => decide (a ∈ [p.addrA, p.addrC, p.addrD, p.addrF, p.addrG])

/-- The block's transactions, in order. -/
def blockTrace (l : List Txn) : List BusOp := (l.filter fun t => t.master = .prm).map Txn.op

/-- Every transaction the block has issued is one that 20_memory.md R35 allows. -/
def State.traceAllowed (s : State) : Bool := (blockTrace s.trace).all (allowedTxn s.params)

/-- `SETPIN.LOW` for the level 0 and `SETPIN.HIGH` for the level 1: the two operations that drive a pin. -/
def drive (level : Bool) (pin : Nat) : Instr := if level then .setpinHigh pin else .setpinLow pin

/-- The bit that a command forces in the word it writes in a phase (41_rmw_sequencer.md R78): the direction bit in `WR1` of
`SETPIN.HIZ` and in `WR2`, the output bit in `WR1` of the other two; none where the phase writes nothing. -/
def writeLoc (p : Params) : Instr → Phase → Option BitLoc
  | .setpinHiz pin, .wr1 => dirLoc p pin
  | .setpinLow pin, .wr1 | .setpinHigh pin, .wr1 => outLoc p pin
  | .setpinLow pin, .wr2 | .setpinHigh pin, .wr2 => dirLoc p pin
  | _, _ => none

/-- The level that bit is forced to (41_rmw_sequencer.md R80, R82). -/
def writeLevel : Instr → Phase → Bool
  | .setpinHigh _, .wr1 => true
  | _, .wr2 => true
  | _, _ => false

/-- The address of the read-modify-write whose write comes next: `addr1` in `WR1`, `addr2` in `WR2` (41_rmw_sequencer.md R78). -/
def State.writeAddr (s : State) : Option Addr :=
  match decode s.cmd with
  | .ok i => (writeLoc s.params i s.phase).map BitLoc.addr
  | .error _ => none

/-- Where a write comes next, the block's last transaction is the read of the same address, and `LATCH` holds the word that
read returned (41_rmw_sequencer.md R75, 10_state.md R32). -/
def State.latchOk (s : State) : Bool :=
  match s.writeAddr with
  | none => true
  | some a => decide ((blockTrace s.trace).getLast? = some (.peek a s.latch))

/-- The lock premise (20_memory.md R46): from acceptance to the taking of the response, `CONSUMER` holds the lock. -/
def State.lockPremise (s : State) : Bool := !s.busy || decide (s.lock = .consumer)

/-- What `CONSUMER` means to do is commands as 60_exceptions.md R107 requires them: `lock()`, present one, take its response,
`unlock()`. -/
def disciplined : List ConsumerOp → Bool
  | [] => true
  | .lock :: .present _ :: .take :: .unlock :: rest => disciplined rest
  | _ => false

/-- What is left of such a command once its lock is held. -/
def lockedRest : List ConsumerOp → Bool
  | .present _ :: .take :: .unlock :: rest => disciplined rest
  | .take :: .unlock :: rest => disciplined rest
  | .unlock :: rest => disciplined rest
  | _ => false

/-- `CONSUMER` is between commands, or inside one that it began with the lock. -/
def State.consumerDisciplined (s : State) : Bool :=
  if s.lock = .consumer then
    lockedRest s.consumer &&
      (match s.consumer with
        | .take :: _ => !s.busy || s.port.isNone
        | _ => !s.busy && s.port.isNone)
  else disciplined s.consumer && !s.busy && s.port.isNone

/-- What the outside can see of the machine: the bus trace and the responses taken (00_scope.md R12), and with them everything
that is not a register of the block. -/
def State.outside (s : State) : State :=
  { s with phase := .idle, cmd := 0, latch := 0, rspData := 0, rspErr := 0 }

end Sys2Proof.Machine
end

