-- ==== Sys2Proof/Certificates/Slice0/Obligations.lean ====
section
/-! DEFINITION. The statements for the provers. Where one speaks of a level, 0 is `Low` and 1 is `High`. -/

open Sys2Proof Sys2Proof.Machine

/-! Encoding. -/

/-- 30_encoding.md R58: every (operation, pin) pair with a pin of 0 to 255 comes back from its word. -/
def Obligations.DecodeOfEncode : Prop := ∀ i : Instr, i.wf = true → decode (encode i) = .ok i

/-- 95_test_vectors.md V1, from 30_encoding.md R58: every word that is not reserved is the word of what it decodes to. -/
def Obligations.EncodeOfDecode : Prop := ∀ (w : Word) (i : Instr), decode w = .ok i → i.wf = true ∧ encode i = w

/-- 30_encoding.md R58: the four words of a pin. -/
def Obligations.EncodedWords : Prop :=
  ∀ pin : Nat, pin ≤ 255 →
    encode (.getpin pin) = 0x0000#16 ||| BitVec.ofNat 16 pin ∧
    encode (.setpinLow pin) = 0x0400#16 ||| BitVec.ofNat 16 pin ∧
    encode (.setpinHigh pin) = 0x0500#16 ||| BitVec.ofNat 16 pin ∧
    encode (.setpinHiz pin) = 0x0600#16 ||| BitVec.ofNat 16 pin

/-- 30_encoding.md R57: the decoder, its fields read off the number that the word is. -/
def Obligations.DecodeByFields : Prop :=
  ∀ w : Word,
    decode w =
      if w.toNat / 2048 ≠ 0 then .error .zeroFieldSet
      else if w.toNat / 1024 % 2 = 0 then
        if w.toNat / 256 % 4 = 0 then .ok (.getpin (w.toNat % 256)) else .error .getpinWithState
      else if w.toNat / 256 % 4 = 0 then .ok (.setpinLow (w.toNat % 256))
      else if w.toNat / 256 % 4 = 1 then .ok (.setpinHigh (w.toNat % 256))
      else if w.toNat / 256 % 4 = 2 then .ok (.setpinHiz (w.toNat % 256))
      else .error .noSuchPinState

/-- 30_encoding.md R56: the reserved words are three blocks, each refused under its own name. -/
def Obligations.ReservedWords : Prop :=
  ∀ w : Word,
    (decode w = .error .getpinWithState ↔ 0x0100 ≤ w.toNat ∧ w.toNat ≤ 0x03FF) ∧
    (decode w = .error .noSuchPinState ↔ 0x0700 ≤ w.toNat ∧ w.toNat ≤ 0x07FF) ∧
    (decode w = .error .zeroFieldSet ↔ 0x0800 ≤ w.toNat)

/-- 95_test_vectors.md V1: words written out from 30_encoding.md R55. -/
def Obligations.SampleWordsDecode : Prop :=
  decode 0b0000000000100111#16 = .ok (.getpin 39) ∧
  decode 0b0000010100100111#16 = .ok (.setpinHigh 39) ∧
  decode 0b0000010000011001#16 = .ok (.setpinLow 25) ∧
  decode 0b0000011000011001#16 = .ok (.setpinHiz 25) ∧
  decode 0b0000000100100111#16 = .error .getpinWithState ∧
  decode 0b0000011100100111#16 = .error .noSuchPinState ∧
  decode 0b1000010100100111#16 = .error .zeroFieldSet

/-! The pin decoder. -/

/-- 40_pin_decode.md R62: the class of every number, and `valid`. -/
def Obligations.ClassOfPin : Prop :=
  ∀ pin : Nat,
    (classify pin = .range37to40 ↔ 37 ≤ pin ∧ pin ≤ 40) ∧
    (classify pin = .range21to36 ↔ 21 ≤ pin ∧ pin ≤ 36) ∧
    (classify pin = .range5to20 ↔ 5 ≤ pin ∧ pin ≤ 20) ∧
    (classify pin = .invalid ↔ pin < 5 ∨ 40 < pin) ∧
    (validPin pin = true ↔ classify pin ≠ .invalid)

/-- 40_pin_decode.md R64: of the 256 values of the field 220 are invalid and 36 valid; which ones. -/
def Obligations.InvalidPins : Prop :=
  (List.range 256).countP (fun pin => !validPin pin) = 220 ∧ (List.range 256).countP validPin = 36 ∧
    ∀ pin : Nat, pin ≤ 255 → (validPin pin = false ↔ pin ≤ 4 ∨ 41 ≤ pin)

/-- 40_pin_decode.md R65 to R70: where the input, output and direction bit of every valid pin are; an invalid pin has none. -/
def Obligations.PlacesOfPins : Prop :=
  ∀ (p : Params) (pin : Nat),
    (37 ≤ pin → pin ≤ 40 → inLoc p pin = some ⟨p.addrA, pin - 25⟩ ∧ outLoc p pin = some ⟨p.addrA, pin - 29⟩ ∧
      dirLoc p pin = some ⟨p.addrA, pin - 33⟩) ∧
    (21 ≤ pin → pin ≤ 36 → inLoc p pin = some ⟨p.addrB, pin - 21⟩ ∧ outLoc p pin = some ⟨p.addrC, pin - 21⟩ ∧
      dirLoc p pin = some ⟨p.addrD, pin - 21⟩) ∧
    (5 ≤ pin → pin ≤ 20 → inLoc p pin = some ⟨p.addrE, pin - 5⟩ ∧ outLoc p pin = some ⟨p.addrF, pin - 5⟩ ∧
      dirLoc p pin = some ⟨p.addrG, pin - 5⟩) ∧
    (pin < 5 ∨ 40 < pin → inLoc p pin = none ∧ outLoc p pin = none ∧ dirLoc p pin = none)

/-- 40_pin_decode.md R68 to R71: a valid pin has all three offsets, each in 0..15; for pins 37 to 40 they are 4 apart and in
their fields, for the others they are equal; the mask of an offset is one of the sixteen single-bit words. -/
def Obligations.OffsetsAndMasks : Prop :=
  (∀ pin : Nat, validPin pin = true →
    ∃ i o d, inOff pin = some i ∧ outOff pin = some o ∧ dirOff pin = some d ∧ i ≤ 15 ∧ o ≤ 15 ∧ d ≤ 15 ∧
      (37 ≤ pin → i = o + 4 ∧ o = d + 4 ∧ 4 ≤ d ∧ d ≤ 7) ∧ (pin ≤ 36 → i = o ∧ o = d)) ∧
  ∀ off : Nat, off ≤ 15 →
    mask off ∈ [0x0001#16, 0x0002#16, 0x0004#16, 0x0008#16, 0x0010#16, 0x0020#16, 0x0040#16, 0x0080#16, 0x0100#16,
      0x0200#16, 0x0400#16, 0x0800#16, 0x1000#16, 0x2000#16, 0x4000#16, 0x8000#16] ∧ (mask off).toNat = 2 ^ off

/-- 40_pin_decode.md R73: the bits of two different valid pins are different (address, bit) pairs, and so are the three bits
of one. -/
def Obligations.PinBitsDisjoint : Prop :=
  ∀ (p : Params) (q r : Nat), validPin q = true → validPin r = true →
    [inLoc p q, outLoc p q, dirLoc p q].Nodup ∧ none ∉ [inLoc p q, outLoc p q, dirLoc p q] ∧
    (q ≠ r → [inLoc p q, outLoc p q, dirLoc p q].Disjoint [inLoc p r, outLoc p r, dirLoc p r])

/-- 40_pin_decode.md R72, laws 1 to 5. -/
def Obligations.BitLaws : Prop :=
  ∀ (w : Word) (i j : Nat), i ≤ 15 → j ≤ 15 →
    getBit (setBit w i) i = 1 ∧ getBit (clrBit w i) i = 0 ∧
    (j ≠ i → getBit (setBit w i) j = getBit w j ∧ getBit (clrBit w i) j = getBit w j) ∧
    setBit (setBit w i) i = setBit w i ∧ clrBit (clrBit w i) i = clrBit w i ∧
    (getBit w i = 1 → setBit w i = w) ∧ (getBit w i = 0 → clrBit w i = w) ∧
    (i ≠ j → setBit (setBit w j) i = setBit (setBit w i) j ∧ clrBit (clrBit w j) i = clrBit (clrBit w i) j ∧
      setBit (clrBit w j) i = clrBit (setBit w i) j)

/-! One step of a command. -/

/-- 41_rmw_sequencer.md R77: a defined operation on a valid pin is accepted, and nothing else happens. -/
def Obligations.AcceptsValidCommand : Prop :=
  ∀ (i : Instr) (s : State), s.phase = .idle → validPin i.pin = true →
    exec i s = .next { s with cmd := encode i, port := none, phase := .rd1 }

/-- 60_exceptions.md R98: the three assignments and nothing else, for all four operations; and the machine is idle again, so a
next command is accepted as ever, after the response is taken. -/
def Obligations.InvalidPinReported : Prop :=
  ∀ (i : Instr) (s : State), s.phase = .idle → validPin i.pin = false →
    ∃ t, exec i s = .next t ∧
      t = { s with cmd := encode i, port := none, rspErr := 0b01#2, rspData := s.params.sentinel, phase := .resp } ∧
      ∃ u, slotStep .consumer { t with consumer := [.take] } = .next u ∧ u.phase = .idle ∧ u.bank = s.bank ∧
        ∀ j : Instr, validPin j.pin = true → exec j u = .next { u with cmd := encode j, port := none, phase := .rd1 }

/-- 60_exceptions.md R99 and R100: a reserved word, whatever its `PIN` field, reports `ERR_RESERVED` and does nothing else. -/
def Obligations.ReservedWordReported : Prop :=
  ∀ (s : State) (w : Word) (e : DecodeError), s.nextSlot.1 = .prm → s.phase = .idle → s.port = some w → decode w = .error e →
    step s = .next
      { s.nextSlot.2 with cmd := w, port := none, rspErr := 0b10#2, rspData := s.params.sentinel, phase := .resp }

/-- 43_getpin.md R94 and 41_rmw_sequencer.md R79: `GETPIN` on a valid pin completes at its one read, with any device behind the
bus; the result is the input bit; nothing outside the block changes but what the read itself uses up of the device. -/
def Obligations.GetpinCompletes : Prop :=
  ∀ (pin : Nat) (s : State), s.phase = .rd1 → validPin pin = true →
    ∃ t l w, inLoc s.params pin = some l ∧ w = (s.answer l.addr).1 ∧ exec (.getpin pin) s = .next t ∧
      t = { s with
        latch := w
        rspData := if w.getLsbD l.off then 0x0001#16 else 0x0000#16
        rspErr := 0b00#2
        phase := .resp
        trace := s.trace ++ [⟨.prm, .peek l.addr w⟩]
        device := (s.answer l.addr).2.device
        freeCount := (s.answer l.addr).2.freeCount }

/-- 42_setpin.md R89, 41_rmw_sequencer.md R79 and R80: the two transactions of `SETPIN.HIZ` on a valid pin. The read goes to
`LATCH`; the write is `LATCH` with the direction bit 0 and completes the command; in the reference environment the stored
direction bit is then 0. -/
def Obligations.SetpinHizCompletes : Prop :=
  ∀ (pin : Nat) (s : State), validPin pin = true →
    ∃ d, dirLoc s.params pin = some d ∧
      (s.phase = .rd1 →
        exec (.setpinHiz pin) s = .next { s with
          latch := (s.answer d.addr).1
          phase := .wr1
          trace := s.trace ++ [⟨.prm, .peek d.addr (s.answer d.addr).1⟩]
          device := (s.answer d.addr).2.device
          freeCount := (s.answer d.addr).2.freeCount }) ∧
      (s.phase = .wr1 →
        ∃ t v, exec (.setpinHiz pin) s = .next t ∧
          (∀ j, v.getLsbD j = if j = d.off then false else s.latch.getLsbD j) ∧
          t = { s with
            bank := t.bank
            rspData := 0x0000#16
            rspErr := 0b00#2
            phase := .resp
            trace := s.trace ++ [⟨.prm, .poke d.addr v⟩] } ∧
          (∀ a, a ≠ d.addr → t.bankRead a = s.bankRead a) ∧
          (s.device = .reference → t.dirBit pin = false))

/-- 42_setpin.md R90 and R91, 41_rmw_sequencer.md R79 to R82: the four transactions of `SETPIN.LOW` (level 0) and `SETPIN.HIGH`
(level 1) on a valid pin. The first write is `LATCH` with the output bit at the level, the second is the word read afresh with
the direction bit 1, which completes the command. -/
def Obligations.SetpinLevelCompletes : Prop :=
  ∀ (level : Bool) (pin : Nat) (s : State), validPin pin = true →
    ∃ o d, outLoc s.params pin = some o ∧ dirLoc s.params pin = some d ∧
      (s.phase = .rd1 →
        exec (drive level pin) s = .next { s with
          latch := (s.answer o.addr).1
          phase := .wr1
          trace := s.trace ++ [⟨.prm, .peek o.addr (s.answer o.addr).1⟩]
          device := (s.answer o.addr).2.device
          freeCount := (s.answer o.addr).2.freeCount }) ∧
      (s.phase = .wr1 →
        ∃ t v, exec (drive level pin) s = .next t ∧
          (∀ j, v.getLsbD j = if j = o.off then level else s.latch.getLsbD j) ∧
          t = { s with bank := t.bank, phase := .rd2, trace := s.trace ++ [⟨.prm, .poke o.addr v⟩] } ∧
          (∀ a, a ≠ o.addr → t.bankRead a = s.bankRead a) ∧
          (s.device = .reference → t.outBit pin = level)) ∧
      (s.phase = .rd2 →
        exec (drive level pin) s = .next { s with
          latch := (s.answer d.addr).1
          phase := .wr2
          trace := s.trace ++ [⟨.prm, .peek d.addr (s.answer d.addr).1⟩]
          device := (s.answer d.addr).2.device
          freeCount := (s.answer d.addr).2.freeCount }) ∧
      (s.phase = .wr2 →
        ∃ t v, exec (drive level pin) s = .next t ∧
          (∀ j, v.getLsbD j = if j = d.off then true else s.latch.getLsbD j) ∧
          t = { s with
            bank := t.bank
            rspData := 0x0000#16
            rspErr := 0b00#2
            phase := .resp
            trace := s.trace ++ [⟨.prm, .poke d.addr v⟩] } ∧
          (∀ a, a ≠ d.addr → t.bankRead a = s.bankRead a) ∧
          (s.device = .reference → t.dirBit pin = true))

/-- The frame of all four operations, in every phase: what an instruction leaves unchanged when it answers a next state. The
one address stored to is `writeLoc` of the operation in the phase it is in, the meaning's own expression for it. -/
def Obligations.ExecFrame : Prop :=
  ∀ (i : Instr) (s t : State), exec i s = .next t →
    t.params = s.params ∧ t.ext = s.ext ∧ t.lock = s.lock ∧ t.consumer = s.consumer ∧ t.other = s.other ∧
    t.world = s.world ∧ t.schedule = s.schedule ∧ t.responses = s.responses ∧
    (s.phase ≠ .idle → t.cmd = s.cmd ∧ t.port = s.port) ∧
    (s.phase ≠ .rd1 → s.phase ≠ .rd2 → t.latch = s.latch ∧ t.device = s.device ∧ t.freeCount = s.freeCount) ∧
    (t.phase ≠ .resp → t.rspData = s.rspData ∧ t.rspErr = s.rspErr) ∧
    (t.trace = s.trace ∨ ∃ op, t.trace = s.trace ++ [⟨.prm, op⟩]) ∧
    (writeLoc s.params i s.phase = none → t.bank = s.bank) ∧
    (∀ (l : BitLoc) (a : Addr), writeLoc s.params i s.phase = some l → a ≠ l.addr → t.bankRead a = s.bankRead a)

/-- 41_rmw_sequencer.md R75, R80, R82: in a phase that writes, the write is issued whether or not it changes anything (R85), and
the word is `LATCH` in every bit but the one it forces; in the reference environment the stored bits of the addressed word are
then that word's, but for `A[15:12]`, which stay (10_state.md R31). -/
def Obligations.WrittenWordIsLatch : Prop :=
  ∀ (i : Instr) (s : State) (l : BitLoc), writeLoc s.params i s.phase = some l →
    ∃ t v, exec i s = .next t ∧ t.trace = s.trace ++ [⟨.prm, .poke l.addr v⟩] ∧
      (∀ j, v.getLsbD j = if j = l.off then writeLevel i s.phase else s.latch.getLsbD j) ∧
      (s.device = .reference → ∀ j, (t.bankRead l.addr).getLsbD j =
        if l.addr = s.params.addrA ∧ 12 ≤ j then (s.bankRead l.addr).getLsbD j else v.getLsbD j)

/-- The model's deduction (log entry 15): in `RESP` `exec` answers the state unchanged. No step runs it there; 41_rmw_sequencer.md
R83 says of the block that it holds its response. -/
def Obligations.BlockHoldsResponse : Prop := ∀ (i : Instr) (s : State), s.phase = .resp → exec i s = .next s

/-- 41_rmw_sequencer.md R76, "No other transition exists": while a command is in progress, the meaning stops exactly where the
pin is invalid or the phase is none of the operation's. -/
def Obligations.StopsOutsideItsPhases : Prop :=
  ∀ (i : Instr) (s : State), s.phase ∈ [.rd1, .wr1, .rd2, .wr2] →
    (exec i s = .fault .noTransition ↔ validPin i.pin = false ∨ phaseOf i s.phase = false)

/-- 43_getpin.md R94 (a): of the word read only the input bit has an influence on the response. -/
def Obligations.GetpinUsesOneBit : Prop :=
  ∀ (pin : Nat) (s t u x : State) (l : BitLoc), s.phase = .rd1 → t.phase = .rd1 → t.params = s.params →
    inLoc s.params pin = some l → (s.answer l.addr).1.getLsbD l.off = (t.answer l.addr).1.getLsbD l.off →
    exec (.getpin pin) s = .next u → exec (.getpin pin) t = .next x → u.response = x.response

/-! Whole commands. -/

/-- 41_rmw_sequencer.md R88 and 30_encoding.md R59, for every answer of the bus: a valid command issues exactly the transactions
of its row, in order, and gives the response of its row. -/
def Obligations.CommandTraceForEveryAnswer : Prop :=
  ∀ (i : Instr) (s : State) (w1 w2 : Word) (ws : List Word), i.wf = true → validPin i.pin = true → s.schedule = [] →
    s.phase = .idle → s.port = some (encode i) → s.device = .arbitrary (w1 :: w2 :: ws) →
    ∃ t, run (blockSteps i) s = .next t ∧ t.phase = .resp ∧
      t.trace = s.trace ++ (bigStep s.params i w1 w2).1.map (⟨.prm, ·⟩) ∧
      t.response = (bigStep s.params i w1 w2).2

/-- 41_rmw_sequencer.md R84, with the reference environment as a premise (log entry 20): while `CONSUMER` holds the lock, however
the slots of `OTHER` and `WORLD` fall between those of the block, with none of `CONSUMER` or reset among them, the command has its big-step effect on the bank, issues the transactions of its row and no agent issues another, and
gives the response of its row. A `GETPIN` with no move of `WORLD` left reads what the bus showed at the start. -/
def Obligations.BigStepUnderLock : Prop :=
  ∀ (i : Instr) (s : State), i.wf = true → validPin i.pin = true → s.phase = .idle → s.port = some (encode i) →
    s.lock = .consumer → s.device = .reference → (∀ m ∈ s.schedule, m = .prm ∨ m = .other ∨ m = .world) →
    s.schedule.count .prm = blockSteps i →
    ∃ t w1 w2, run s.schedule.length s = .next t ∧ t.phase = .resp ∧ t.lock = .consumer ∧
      t.bank = (bigEffect i s).bank ∧
      t.trace = s.trace ++ (bigStep s.params i w1 w2).1.map (⟨.prm, ·⟩) ∧
      t.response = (bigStep s.params i w1 w2).2 ∧
      ∀ pin l, i = .getpin pin → s.world = [] → inLoc s.params pin = some l → w1 = s.refPeek l.addr

/-- 42_setpin.md R90 to R92 (items 1, 2, 4), in the reference environment with nothing between the steps: the output bit is at the level,
the direction bit is 1, and no other stored bit of any address has changed. -/
def Obligations.SetpinDrivesPin : Prop :=
  ∀ (level : Bool) (pin : Nat) (s : State), pin ≤ 255 → validPin pin = true → s.schedule = [] → s.phase = .idle →
    s.port = some (encode (drive level pin)) → s.device = .reference →
    ∃ t o d, run 5 s = .next t ∧ outLoc s.params pin = some o ∧ dirLoc s.params pin = some d ∧
      t.phase = .resp ∧ t.response = ⟨0x0000#16, 0b00#2⟩ ∧ t.outBit pin = level ∧ t.dirBit pin = true ∧
      ∀ l : BitLoc, l ≠ o → l ≠ d → t.storedBit l = s.storedBit l

/-- 42_setpin.md R89 and R92 (item 3), in the reference environment with nothing between the steps: the direction bit is 0, and no
other stored bit has changed, the output bit among them. -/
def Obligations.HizReleasesPin : Prop :=
  ∀ (pin : Nat) (s : State), pin ≤ 255 → validPin pin = true → s.schedule = [] → s.phase = .idle →
    s.port = some (encode (.setpinHiz pin)) → s.device = .reference →
    ∃ t d, run 3 s = .next t ∧ dirLoc s.params pin = some d ∧ t.phase = .resp ∧ t.response = ⟨0x0000#16, 0b00#2⟩ ∧
      t.dirBit pin = false ∧ t.outBit pin = s.outBit pin ∧ ∀ l : BitLoc, l ≠ d → t.storedBit l = s.storedBit l

/-- 43_getpin.md R94 (b) and 70_reset_and_hazards.md R121, in the reference environment with nothing between the steps: the
result is the level of the pin's line, and the one transaction is a read. -/
def Obligations.GetpinReadsLine : Prop :=
  ∀ (pin : Nat) (s : State), pin ≤ 255 → validPin pin = true → s.schedule = [] → s.phase = .idle →
    s.port = some (encode (.getpin pin)) → s.device = .reference →
    ∃ t l, run 2 s = .next t ∧ inLoc s.params pin = some l ∧ t.phase = .resp ∧
      t.response = ⟨if s.line pin then 0x0001#16 else 0x0000#16, 0b00#2⟩ ∧ t.bank = s.bank ∧ t.ext = s.ext ∧
      t.trace = s.trace ++ [⟨.prm, .peek l.addr (s.refPeek l.addr)⟩]

/-- 95_test_vectors.md S4.1, with the pad model of 10_state.md R29 as its premise (the reference environment): `setPin(p, v)`
followed by `getPin(p)` returns `v`, whatever the outside drives. -/
def Obligations.RoundTrip : Prop :=
  ∀ (level : Bool) (pin : Nat) (s : State) (rest : List ConsumerOp), pin ≤ 255 → validPin pin = true → s.schedule = [] →
    s.phase = .idle → s.port = some (encode (drive level pin)) → s.device = .reference →
    s.consumer = .take :: .present (encode (.getpin pin)) :: rest →
    ∃ t, run 9 s = .next t ∧ t.phase = .resp ∧ t.responses = s.responses ++ [⟨0x0000#16, 0b00#2⟩] ∧
      t.response = ⟨if level then 0x0001#16 else 0x0000#16, 0b00#2⟩

/-- 41_rmw_sequencer.md R87, in the reference environment with nothing between the steps: a pin that was an input never becomes an
output with another level on its output bit than the one asked for. -/
def Obligations.NeverDrivesStaleLevel : Prop :=
  ∀ (level : Bool) (pin k : Nat) (s : State), pin ≤ 255 → validPin pin = true → s.schedule = [] → s.phase = .idle →
    s.port = some (encode (drive level pin)) → s.device = .reference → s.dirBit pin = false → k ≤ 5 →
    ∃ t, run k s = .next t ∧ (t.dirBit pin = true → t.outBit pin = level) ∧
      (t.line pin = s.extBit pin ∨ t.line pin = level)

/-! The reference environment. -/

/-- 10_state.md R30: the input bit of every valid pin reads the pin's line, every other bit reads what is stored, and a read
changes nothing but the trace. -/
def Obligations.PeekShowsLines : Prop :=
  ∀ s : State,
    (∀ (pin : Nat) (l : BitLoc), inLoc s.params pin = some l → (s.refPeek l.addr).getLsbD l.off = s.line pin) ∧
    (∀ j, j < 12 → (s.refPeek s.params.addrA).getLsbD j = (s.bankRead s.params.addrA).getLsbD j) ∧
    (∀ a, a ∉ [s.params.addrA, s.params.addrB, s.params.addrE] → s.refPeek a = s.bankRead a) ∧
    (∀ (who : Master) (a : Addr), s.device = .reference →
      s.busPeek who a = (s.refPeek a, { s with trace := s.trace ++ [⟨who, .peek a (s.refPeek a)⟩] }))

/-- 10_state.md R31, 20_memory.md R38 and R39: a read after a write of the same address gives the written word in every stored
bit; the read-only bits follow the lines, whatever was written; the lines of pins of other registers and every other stored word
stay. What `A[15:12]` reads is the pad model of 10_state.md R29 through R30, a premise here (log entry 20); `A[3:0]` as storage is
log entry 21. -/
def Obligations.PeekAfterPoke : Prop :=
  ∀ (s : State) (a : Addr) (v : Word),
    (a ∉ [s.params.addrA, s.params.addrB, s.params.addrE] → (s.refPoke a v).refPeek a = v) ∧
    (a = s.params.addrA → (∀ j, j < 12 → ((s.refPoke a v).refPeek a).getLsbD j = v.getLsbD j) ∧
      ∀ k, k < 4 → ((s.refPoke a v).refPeek a).getLsbD (12 + k) =
        if v.getLsbD (4 + k) then v.getLsbD (8 + k) else s.extBit (37 + k)) ∧
    (a = s.params.addrB ∨ a = s.params.addrE → s.refPoke a v = s) ∧
    (∀ b, b ∉ [a, s.params.addrB, s.params.addrE] → (s.refPoke a v).refPeek b = s.refPeek b)

/-! The agents. -/

/-- 20_memory.md R40 and R46: a step adds at most one transaction, and while `CONSUMER` holds the lock none of `OTHER`; only a slot
of `CONSUMER` gives its lock back. -/
def Obligations.LockExcludesOther : Prop :=
  ∀ s t : State, step s = .next t →
    (t.trace = s.trace ∨ ∃ x, t.trace = s.trace ++ [x] ∧ (s.lock = .consumer → x.master = .prm)) ∧
    (s.lock = .consumer → t.lock = .consumer ∨ s.nextSlot.1 = .consumer)

/-- 20_memory.md R45: `OTHER` writes the word between the halves of the block's first read-modify-write. The register then holds
the block's word, made from what it read before, and nothing is left of what `OTHER` wrote. -/
def Obligations.LostUpdate : Prop :=
  ∀ (i : Instr) (s : State) (l : BitLoc) (v : Word) (ops : List OtherOp) (rest : List Mover),
    decode s.cmd = .ok i → s.phase = .rd1 → writeLoc s.params i .wr1 = some l → s.device = .reference →
    s.lock ≠ .consumer → s.other = .poke l.addr v :: ops → s.schedule = .prm :: .other :: .prm :: rest →
    ∃ t x, run 3 s = .next t ∧
      (∀ j, x.getLsbD j = if j = l.off then writeLevel i .wr1 else (s.refPeek l.addr).getLsbD j) ∧
      t.trace = s.trace ++ [⟨.prm, .peek l.addr (s.refPeek l.addr)⟩, ⟨.other, .poke l.addr v⟩, ⟨.prm, .poke l.addr x⟩] ∧
      (∀ a, t.bankRead a = (s.refPoke l.addr x).bankRead a) ∧
      ∀ j, (l.addr = s.params.addrA → j < 12) → (t.bankRead l.addr).getLsbD j = x.getLsbD j

/-- 70_reset_and_hazards.md R118: on the combined register a write of `OTHER` in the gap between the two read-modify-writes is
preserved, but for the direction bit that the block sets. -/
def Obligations.CombinedRegisterGap : Prop :=
  ∀ (level : Bool) (pin : Nat) (s : State) (v : Word) (ops : List OtherOp) (rest : List Mover),
    37 ≤ pin → pin ≤ 40 → decode s.cmd = .ok (drive level pin) → s.phase = .wr1 → s.device = .reference →
    s.lock ≠ .consumer → s.other = .poke s.params.addrA v :: ops →
    s.schedule = .prm :: .other :: .prm :: .prm :: rest →
    ∃ t, run 4 s = .next t ∧ t.phase = .resp ∧
      ∀ j, j < 12 → (t.bankRead s.params.addrA).getLsbD j = if j = pin - 33 then true else v.getLsbD j

/-- 41_rmw_sequencer.md R77 and 20_memory.md R48: a command on the port is not lost and not changed; it leaves the port only by
being accepted, whole, into `CMD`, and only when the block is idle. That it survives a reset is the model's choice (log entry 12),
and so is that it cannot be withdrawn or changed (log entry 29). -/
def Obligations.CommandWaits : Prop :=
  ∀ (s t : State) (w : Word), s.port = some w → step s = .next t →
    t.port = some w ∨ (s.phase = .idle ∧ t.port = none ∧ t.cmd = w ∧ (t.phase = .rd1 ∨ t.phase = .resp))

/-- 41_rmw_sequencer.md R83: in `RESP` the response is held until `CONSUMER` takes it, or the block is reset. -/
def Obligations.ResponseHeld : Prop :=
  ∀ s t : State, s.phase = .resp → step s = .next t →
    (t.phase = .resp ∧ t.response = s.response ∧ t.responses = s.responses) ∨
    (s.nextSlot.1 = .consumer ∧ t.phase = .idle ∧ t.responses = s.responses ++ [s.response]) ∨
    (s.nextSlot.1 = .reset ∧ t.phase = .idle ∧ t.responses = s.responses)

/-- 10_state.md R29 and 20_memory.md R46: a slot of `WORLD` sets the one pad it names, lock or no lock, and changes nothing else. -/
def Obligations.WorldMovesPads : Prop :=
  ∀ (s : State) (o : WorldOp) (ops : List WorldOp) (rest : List Mover), s.schedule = .world :: rest →
    s.world = o :: ops → validPin o.pin = true →
    ∃ t, step s = .next t ∧ t = { s with schedule := rest, world := ops, ext := t.ext } ∧
      ∀ q, validPin q = true → t.extBit q = if q = o.pin then o.level else s.extBit q

/-- 00_scope.md R5 and 20_memory.md R46: `OTHER` writes the bus at any address when `CONSUMER` does not hold the lock, and waits
when it does. -/
def Obligations.OtherWritesBus : Prop :=
  ∀ (s : State) (a : Addr) (v : Word) (ops : List OtherOp) (rest : List Mover), s.schedule = .other :: rest →
    s.other = .poke a v :: ops → s.device = .reference →
    (s.lock = .consumer → step s = .next { s with schedule := rest }) ∧
    (s.lock ≠ .consumer → step s = .next { s with
      schedule := rest
      other := ops
      bank := (s.refPoke a v).bank
      trace := s.trace ++ [⟨.other, .poke a v⟩] })

/-- The step runs the decoded instruction: an idle block the one on the port, a busy one the one in `CMD`; the step adds only the
taking of the slot off the schedule. -/
def Obligations.StepRunsDecodedInstruction : Prop :=
  ∀ (s : State) (w : Word) (i : Instr), decode w = .ok i →
    (s.phase = .idle ∧ s.port = some w ∨ s.phase ∈ [.rd1, .wr1, .rd2, .wr2] ∧ s.cmd = w) →
    (s.schedule = [] → step s = exec i s) ∧
    ∀ rest, s.schedule = .prm :: rest → step s = exec i { s with schedule := rest }

/-! Reset. -/

/-- 10_state.md R33: what the spec gives for reset. -/
def Obligations.StateAfterReset : Prop :=
  State.reset.phase = .idle ∧ State.reset.rspErr = 0b00#2 ∧ State.reset.busy = false ∧ State.reset.lock = .free

/-- 70_reset_and_hazards.md R112 and R114: a reset in mid-command leaves the block idle, with no error and no transaction, and
changes nothing outside the block. `CMD`, `LATCH` and `RSP_DATA` are free. -/
def Obligations.BlockResetAbandons : Prop :=
  ∀ (s : State) (rest : List Mover), s.schedule = .reset :: rest →
    ∃ t, step s = .next t ∧ t.phase = .idle ∧ t.rspErr = 0b00#2 ∧ t.busy = false ∧
      t = { s with
        schedule := rest
        phase := .idle
        rspErr := 0b00#2
        cmd := t.cmd
        latch := t.latch
        rspData := t.rspData
        freeCount := t.freeCount }

/-! Invariants. -/

/-- The state after reset meets every invariant below. -/
def Obligations.ResetMeetsInvariants : Prop :=
  State.reset.inv = true ∧ State.reset.traceAllowed = true ∧ State.reset.latchOk = true ∧
    State.reset.consumerDisciplined = true

/-- Every step keeps the invariant: the bank canonical, `RSP_ERR` never `11` (60_exceptions.md R97), `PHASE` one that the command
in `CMD` reaches (41_rmw_sequencer.md R76), a response in `RESP` one that 30_encoding.md R59 gives that command. -/
def Obligations.StepKeepsInv : Prop := ∀ s t : State, s.inv = true → step s = .next t → t.inv = true

/-- A state that meets the invariant goes on: the machine's one fault is out of reach. -/
def Obligations.InvNeverStops : Prop := ∀ s : State, s.inv = true → ∃ t, step s = .next t

/-- 41_rmw_sequencer.md R76: a command in progress reaches `RESP` within four slots of the block, whatever the other agents do
between them. -/
def Obligations.ReachesResponse : Prop :=
  ∀ s : State, s.inv = true → s.phase ∈ [.rd1, .wr1, .rd2, .wr2] → .reset ∉ s.schedule →
    4 ≤ s.schedule.count .prm → ∃ k t, k ≤ s.schedule.length ∧ run k s = .next t ∧ t.phase = .resp

/-- 20_memory.md R35: the block presents no address but the seven, and writes neither `B` nor `E`. -/
def Obligations.BlockPresentsAllowed : Prop :=
  ∀ s t : State, s.traceAllowed = true → step s = .next t → t.traceAllowed = true

/-- 41_rmw_sequencer.md R75, "never a blind write", and 10_state.md R14: where a write comes next, the block's last transaction is
the read of that address, and `LATCH` is the word it returned. -/
def Obligations.NoBlindWrite : Prop := ∀ s t : State, s.latchOk = true → step s = .next t → t.latchOk = true

/-- 20_memory.md R46 and 60_exceptions.md R107: a consumer that does each command as `lock()`, present, take, `unlock()` keeps the
lock premise at every step, whatever the other agents do, and after an error too (70_reset_and_hazards.md R124). -/
def Obligations.DisciplineKeepsLockPremise : Prop :=
  ∀ s t : State, s.consumerDisciplined = true → step s = .next t → t.consumerDisciplined = true ∧ t.lockPremise = true

/-- 10_state.md R17: what the registers of an idle block hold has no influence on anything that follows: not on the phases, not on
the responses, not on anything outside the block. Both runs draw the same free words, which is the model's doing and no fact of the
hardware (log entries 13, 26). -/
def Obligations.NothingCarriesOver : Prop :=
  ∀ (n : Nat) (s t : State) (c l d : Word) (e : BitVec 2), s.phase = .idle → run n s = .next t →
    ∃ u, run n { s with cmd := c, latch := l, rspData := d, rspErr := e } = .next u ∧ u.phase = t.phase ∧
      u.outside = t.outside ∧ (t.phase = .resp → u.response = t.response)
end

