-- ==== Sys2Proof/Laws/Memory.lean ====
section
/-! SUPPORT. The bank as a map: read after write, and the canonical form, kept by every write and unique to its contents. -/

namespace Sys2Proof.Machine

theorem Memory.read_erase (m : Memory) (a b : Nat) :
    (m.erase a).read b = if b = a then Memory.unlisted else Memory.read m b := by
  induction m with
  | nil => simp [Memory.erase, Memory.read]
  | cons c m ih =>
    obtain ⟨k, w⟩ := c
    by_cases hk : k = a
    · have he : Memory.erase ((k, w) :: m) a = Memory.erase m a := by simp [Memory.erase, hk]
      rw [he, ih]
      by_cases hb : b = a
      · simp [hb]
      · have : k ≠ b := fun h => hb (h ▸ hk)
        simp [hb, Memory.read, this]
    · have he : Memory.erase ((k, w) :: m) a = (k, w) :: Memory.erase m a := by simp [Memory.erase, hk]
      rw [he]
      by_cases hb : k = b
      · have : b ≠ a := fun h => hk (hb.trans h)
        simp [Memory.read, hb, this]
      · simp [Memory.read, hb, ih]

theorem Memory.read_insert (a : Nat) (v : Word) (m : Memory) (b : Nat) (h : Memory.read m a = Memory.unlisted)
    (hm : ∀ c ∈ m, c.1 ≠ a) : (Memory.insert a v m).read b = if b = a then v else Memory.read m b := by
  induction m with
  | nil =>
    by_cases hb : b = a
    · simp [Memory.insert, Memory.read, hb]
    · simp [Memory.insert, Memory.read, hb, Ne.symm hb]
  | cons c m ih =>
    obtain ⟨k, w⟩ := c
    have hk : k ≠ a := hm (k, w) (by simp)
    have hr : Memory.read m a = Memory.unlisted := by simpa [Memory.read, hk] using h
    have hi := ih hr fun c hc => hm c (by simp [hc])
    unfold Memory.insert
    split
    · by_cases hb : b = a
      · simp [Memory.read, hb]
      · simp [Memory.read, hb, Ne.symm hb]
    · by_cases hb : k = b
      · have : b ≠ a := fun h => hk (hb.trans h)
        simp [Memory.read, hb, this]
      · simp [Memory.read, hb, hi]

/-- A read after a write: the written word at its address, the old word everywhere else. -/
theorem Memory.read_write (m : Memory) (a : Nat) (v : Word) (b : Nat) :
    (m.write a v).read b = if b = a then v else Memory.read m b := by
  unfold Memory.write
  split
  next hv => rw [Memory.read_erase, hv]
  next =>
    rw [Memory.read_insert a v _ b (by simp [Memory.read_erase]) (by simp [Memory.erase]), Memory.read_erase]
    split <;> rfl

@[simp] theorem State.bankRead_bankWrite (s : State) (a b : Addr) (v : Word) :
    (s.bankWrite a v).bankRead b = if b = a then v else s.bankRead b := by
  simp [State.bankRead, State.bankWrite, Memory.read_write, BitVec.toNat_inj]

theorem Memory.wf_iff (m : Memory) :
    m.wf = true ↔ (m.Pairwise fun x y => x.1 < y.1) ∧ ∀ c ∈ m, c.1 < 2 ^ 16 ∧ c.2 ≠ Memory.unlisted := by
  simp [Memory.wf]

theorem Memory.mem_insert (a : Nat) (v : Word) (m : Memory) (c : Cell) :
    c ∈ Memory.insert a v m ↔ c = (a, v) ∨ c ∈ m := by
  induction m with
  | nil => simp [Memory.insert]
  | cons d m ih =>
    unfold Memory.insert
    split
    · simp
    · simp [ih, or_left_comm]

theorem Memory.insert_pairwise (a : Nat) (v : Word) (m : Memory) (hm : m.Pairwise fun x y => x.1 < y.1)
    (ha : ∀ c ∈ m, c.1 ≠ a) : (Memory.insert a v m).Pairwise fun x y => x.1 < y.1 := by
  induction m with
  | nil => simp [Memory.insert]
  | cons d m ih =>
    obtain ⟨k, w⟩ := d
    have hk : k ≠ a := ha (k, w) (by simp)
    rw [List.pairwise_cons] at hm
    unfold Memory.insert
    split
    next hlt =>
      refine List.pairwise_cons.2 ⟨?_, List.pairwise_cons.2 hm⟩
      intro c hc
      rcases List.mem_cons.1 hc with rfl | hc
      · exact hlt
      · exact hlt.trans (hm.1 c hc)
    next hlt =>
      refine List.pairwise_cons.2 ⟨?_, ih hm.2 fun c hc => ha c (by simp [hc])⟩
      intro c hc
      rcases (Memory.mem_insert a v m c).1 hc with rfl | hc
      · exact lt_of_le_of_ne (Nat.le_of_not_lt hlt) hk
      · exact hm.1 c hc

/-- Every write inside the bus space keeps the canonical form. -/
theorem Memory.write_wf (m : Memory) (a : Nat) (v : Word) (hm : m.wf = true) (ha : a < 2 ^ 16) :
    (m.write a v).wf = true := by
  rw [Memory.wf_iff] at hm ⊢
  have he : (m.erase a).Pairwise fun x y => x.1 < y.1 := hm.1.filter _
  unfold Memory.write
  split
  · exact ⟨he, fun c hc => hm.2 c (List.mem_filter.1 hc).1⟩
  next hv =>
    refine ⟨Memory.insert_pairwise a v _ he (by simp [Memory.erase]), fun c hc => ?_⟩
    rcases (Memory.mem_insert a v _ c).1 hc with rfl | hc
    · exact ⟨ha, hv⟩
    · exact hm.2 c (List.mem_filter.1 hc).1

theorem State.bankWrite_wf (s : State) (a : Addr) (v : Word) (h : s.bank.wf = true) :
    (s.bankWrite a v).bank.wf = true := Memory.write_wf _ _ _ h a.isLt

theorem Memory.read_of_lt (m : Memory) (a : Nat) (h : ∀ c ∈ m, a < c.1) : Memory.read m a = Memory.unlisted := by
  induction m with
  | nil => rfl
  | cons c m ih =>
    have : c.1 ≠ a := (h c (by simp)).ne'
    simpa [Memory.read, this] using ih fun c hc => h c (by simp [hc])

/-- Canonical banks that read the same are the same list. -/
theorem Memory.ext_of_wf (m n : Memory) (hm : m.wf = true) (hn : n.wf = true) (h : ∀ a, Memory.read m a = Memory.read n a) :
    m = n := by
  rw [Memory.wf_iff] at hm hn
  induction m generalizing n with
  | nil =>
    cases n with
    | nil => rfl
    | cons d n =>
      have := h d.1
      simp only [Memory.read] at this
      exact absurd this.symm (hn.2 d (by simp)).2
  | cons c m ih =>
    obtain ⟨hmp, hml⟩ := hm
    rw [List.pairwise_cons] at hmp
    cases n with
    | nil =>
      have := h c.1
      simp only [Memory.read] at this
      exact absurd this (hml c (by simp)).2
    | cons d n =>
      obtain ⟨hnp, hnl⟩ := hn
      rw [List.pairwise_cons] at hnp
      have hcd : c.1 = d.1 := by
        rcases lt_trichotomy c.1 d.1 with hlt | heq | hgt
        · have h1 := h c.1
          rw [Memory.read_of_lt (d :: n) c.1 (by
            intro e he
            rcases List.mem_cons.1 he with rfl | he
            · exact hlt
            · exact hlt.trans (hnp.1 e he))] at h1
          simp only [Memory.read] at h1
          exact absurd h1 (hml c (by simp)).2
        · exact heq
        · have h1 := h d.1
          rw [Memory.read_of_lt (c :: m) d.1 (by
            intro e he
            rcases List.mem_cons.1 he with rfl | he
            · exact hgt
            · exact hgt.trans (hmp.1 e he))] at h1
          simp only [Memory.read] at h1
          exact absurd h1.symm (hnl d (by simp)).2
      have hw : c.2 = d.2 := by
        have := h c.1
        simpa [Memory.read, hcd] using this
      have hrest : m = n := by
        refine ih n ⟨hmp.2, fun e he => hml e (by simp [he])⟩ ⟨hnp.2, fun e he => hnl e (by simp [he])⟩ fun a => ?_
        by_cases ha : c.1 = a
        · rw [Memory.read_of_lt m a (ha ▸ hmp.1), Memory.read_of_lt n a (by rw [← ha, hcd]; exact hnp.1)]
        · have := h a
          simpa [Memory.read, ha, hcd ▸ ha] using this
      rw [hrest, Prod.ext hcd hw]

end Sys2Proof.Machine
end

