-- ==== Sys2Proof/Laws/Operands.lean ====
section
/-! SUPPORT. The pin classes, and where the bits of a valid pin are. -/

namespace Sys2Proof.Machine

/-- The four cases of a pin number, each with what `classify` says of it. -/
theorem classify_cases (pin : Nat) :
    (37 ≤ pin ∧ pin ≤ 40 ∧ classify pin = .range37to40) ∨ (21 ≤ pin ∧ pin ≤ 36 ∧ classify pin = .range21to36) ∨
      (5 ≤ pin ∧ pin ≤ 20 ∧ classify pin = .range5to20) ∨ ((pin < 5 ∨ 40 < pin) ∧ classify pin = .invalid) := by
  unfold classify
  split
  · exact .inl ⟨by omega, by omega, rfl⟩
  · split
    · exact .inr (.inl ⟨by omega, by omega, rfl⟩)
    · split
      · exact .inr (.inr (.inl ⟨by omega, by omega, rfl⟩))
      · exact .inr (.inr (.inr ⟨by omega, rfl⟩))

theorem validPin_iff (pin : Nat) : validPin pin = true ↔ 5 ≤ pin ∧ pin ≤ 40 := by
  rcases classify_cases pin with ⟨h1, h2, h⟩ | ⟨h1, h2, h⟩ | ⟨h1, h2, h⟩ | ⟨h1, h⟩ <;>
    (simp [validPin, h]; omega)

/-- The places of the three bits of a valid pin (10_state.md R26), range by range. -/
theorem locs_of_valid (p : Params) (pin : Nat) (h : validPin pin = true) :
    (37 ≤ pin ∧ pin ≤ 40 ∧ inLoc p pin = some ⟨p.addrA, pin - 25⟩ ∧ outLoc p pin = some ⟨p.addrA, pin - 29⟩ ∧
        dirLoc p pin = some ⟨p.addrA, pin - 33⟩) ∨
      (21 ≤ pin ∧ pin ≤ 36 ∧ inLoc p pin = some ⟨p.addrB, pin - 21⟩ ∧ outLoc p pin = some ⟨p.addrC, pin - 21⟩ ∧
        dirLoc p pin = some ⟨p.addrD, pin - 21⟩) ∨
      (5 ≤ pin ∧ pin ≤ 20 ∧ inLoc p pin = some ⟨p.addrE, pin - 5⟩ ∧ outLoc p pin = some ⟨p.addrF, pin - 5⟩ ∧
        dirLoc p pin = some ⟨p.addrG, pin - 5⟩) := by
  rcases classify_cases pin with ⟨h1, h2, hc⟩ | ⟨h1, h2, hc⟩ | ⟨h1, h2, hc⟩ | ⟨h1, hc⟩
  · exact .inl ⟨h1, h2, by simp [inLoc, outLoc, dirLoc, locOf, inAddr, outAddr, dirAddr, inOff, outOff, dirOff, hc]⟩
  · exact .inr (.inl ⟨h1, h2, by simp [inLoc, outLoc, dirLoc, locOf, inAddr, outAddr, dirAddr, inOff, outOff, dirOff, hc]⟩)
  · exact .inr (.inr ⟨h1, h2, by simp [inLoc, outLoc, dirLoc, locOf, inAddr, outAddr, dirAddr, inOff, outOff, dirOff, hc]⟩)
  · simp [validPin, hc] at h

/-- An invalid pin has no place. -/
theorem locs_of_invalid (p : Params) (pin : Nat) (h : validPin pin = false) :
    inLoc p pin = none ∧ outLoc p pin = none ∧ dirLoc p pin = none := by
  rcases classify_cases pin with ⟨h1, h2, hc⟩ | ⟨h1, h2, hc⟩ | ⟨h1, h2, hc⟩ | ⟨h1, hc⟩
  · simp [validPin, hc] at h
  · simp [validPin, hc] at h
  · simp [validPin, hc] at h
  · simp [inLoc, outLoc, dirLoc, locOf, inAddr, outAddr, dirAddr, hc]

theorem mask_getLsbD (i j : Nat) : (mask i).getLsbD j = (decide (j < 16) && decide (i = j)) := by
  simp only [mask, BitVec.getLsbD_shiftLeft, BitVec.getLsbD_one]
  by_cases h : i = j
  · subst h; simp
  · have : ¬ i ≤ j ∨ ¬ j - i = 0 := by omega
    rcases this with h1 | h1 <;> simp [h, h1]

@[simp] theorem setBit_getLsbD (w : Word) (i j : Nat) :
    (setBit w i).getLsbD j = (w.getLsbD j || (decide (j < 16) && decide (i = j))) := by
  simp [setBit, mask_getLsbD]

@[simp] theorem clrBit_getLsbD (w : Word) (i j : Nat) :
    (clrBit w i).getLsbD j = (w.getLsbD j && !decide (i = j)) := by
  by_cases h : j < 16
  · simp only [clrBit, BitVec.getLsbD_and, BitVec.getLsbD_not, mask_getLsbD, h, decide_true, Bool.true_and]
  · simp [BitVec.getLsbD_of_ge _ _ (Nat.le_of_not_lt h)]

theorem getBit_eq (w : Word) (i : Nat) : getBit w i = BitVec.ofBool (w.getLsbD i) := by
  apply BitVec.eq_of_getLsbD_eq
  intro j hj
  have : j = 0 := by omega
  subst this
  simp [getBit]

end Sys2Proof.Machine
end

