-- ==== Sys2Proof/Laws/State.lean ====
section
/-! SUPPORT. For each update of the state, what each field holds after it. -/

namespace Sys2Proof.Machine

variable (s : State)

@[simp] theorem State.goto_params (ph : Phase) : (s.goto ph).params = s.params := rfl
@[simp] theorem State.goto_phase (ph : Phase) : (s.goto ph).phase = ph := rfl
@[simp] theorem State.goto_cmd (ph : Phase) : (s.goto ph).cmd = s.cmd := rfl
@[simp] theorem State.goto_latch (ph : Phase) : (s.goto ph).latch = s.latch := rfl
@[simp] theorem State.goto_rspData (ph : Phase) : (s.goto ph).rspData = s.rspData := rfl
@[simp] theorem State.goto_rspErr (ph : Phase) : (s.goto ph).rspErr = s.rspErr := rfl
@[simp] theorem State.goto_bank (ph : Phase) : (s.goto ph).bank = s.bank := rfl
@[simp] theorem State.goto_ext (ph : Phase) : (s.goto ph).ext = s.ext := rfl
@[simp] theorem State.goto_lock (ph : Phase) : (s.goto ph).lock = s.lock := rfl
@[simp] theorem State.goto_port (ph : Phase) : (s.goto ph).port = s.port := rfl
@[simp] theorem State.goto_device (ph : Phase) : (s.goto ph).device = s.device := rfl
@[simp] theorem State.goto_consumer (ph : Phase) : (s.goto ph).consumer = s.consumer := rfl
@[simp] theorem State.goto_other (ph : Phase) : (s.goto ph).other = s.other := rfl
@[simp] theorem State.goto_world (ph : Phase) : (s.goto ph).world = s.world := rfl
@[simp] theorem State.goto_schedule (ph : Phase) : (s.goto ph).schedule = s.schedule := rfl
@[simp] theorem State.goto_trace (ph : Phase) : (s.goto ph).trace = s.trace := rfl
@[simp] theorem State.goto_responses (ph : Phase) : (s.goto ph).responses = s.responses := rfl
@[simp] theorem State.goto_freeCount (ph : Phase) : (s.goto ph).freeCount = s.freeCount := rfl

@[simp] theorem State.loadCommand_params (c : Word) : (s.loadCommand c).params = s.params := rfl
@[simp] theorem State.loadCommand_phase (c : Word) : (s.loadCommand c).phase = s.phase := rfl
@[simp] theorem State.loadCommand_cmd (c : Word) : (s.loadCommand c).cmd = c := rfl
@[simp] theorem State.loadCommand_latch (c : Word) : (s.loadCommand c).latch = s.latch := rfl
@[simp] theorem State.loadCommand_rspData (c : Word) : (s.loadCommand c).rspData = s.rspData := rfl
@[simp] theorem State.loadCommand_rspErr (c : Word) : (s.loadCommand c).rspErr = s.rspErr := rfl
@[simp] theorem State.loadCommand_bank (c : Word) : (s.loadCommand c).bank = s.bank := rfl
@[simp] theorem State.loadCommand_ext (c : Word) : (s.loadCommand c).ext = s.ext := rfl
@[simp] theorem State.loadCommand_lock (c : Word) : (s.loadCommand c).lock = s.lock := rfl
@[simp] theorem State.loadCommand_port (c : Word) : (s.loadCommand c).port = none := rfl
@[simp] theorem State.loadCommand_device (c : Word) : (s.loadCommand c).device = s.device := rfl
@[simp] theorem State.loadCommand_consumer (c : Word) : (s.loadCommand c).consumer = s.consumer := rfl
@[simp] theorem State.loadCommand_other (c : Word) : (s.loadCommand c).other = s.other := rfl
@[simp] theorem State.loadCommand_world (c : Word) : (s.loadCommand c).world = s.world := rfl
@[simp] theorem State.loadCommand_schedule (c : Word) : (s.loadCommand c).schedule = s.schedule := rfl
@[simp] theorem State.loadCommand_trace (c : Word) : (s.loadCommand c).trace = s.trace := rfl
@[simp] theorem State.loadCommand_responses (c : Word) : (s.loadCommand c).responses = s.responses := rfl
@[simp] theorem State.loadCommand_freeCount (c : Word) : (s.loadCommand c).freeCount = s.freeCount := rfl

@[simp] theorem State.respond_params (d : Word) (e : BitVec 2) : (s.respond d e).params = s.params := rfl
@[simp] theorem State.respond_phase (d : Word) (e : BitVec 2) : (s.respond d e).phase = .resp := rfl
@[simp] theorem State.respond_cmd (d : Word) (e : BitVec 2) : (s.respond d e).cmd = s.cmd := rfl
@[simp] theorem State.respond_latch (d : Word) (e : BitVec 2) : (s.respond d e).latch = s.latch := rfl
@[simp] theorem State.respond_rspData (d : Word) (e : BitVec 2) : (s.respond d e).rspData = d := rfl
@[simp] theorem State.respond_rspErr (d : Word) (e : BitVec 2) : (s.respond d e).rspErr = e := rfl
@[simp] theorem State.respond_bank (d : Word) (e : BitVec 2) : (s.respond d e).bank = s.bank := rfl
@[simp] theorem State.respond_ext (d : Word) (e : BitVec 2) : (s.respond d e).ext = s.ext := rfl
@[simp] theorem State.respond_lock (d : Word) (e : BitVec 2) : (s.respond d e).lock = s.lock := rfl
@[simp] theorem State.respond_port (d : Word) (e : BitVec 2) : (s.respond d e).port = s.port := rfl
@[simp] theorem State.respond_device (d : Word) (e : BitVec 2) : (s.respond d e).device = s.device := rfl
@[simp] theorem State.respond_consumer (d : Word) (e : BitVec 2) : (s.respond d e).consumer = s.consumer := rfl
@[simp] theorem State.respond_other (d : Word) (e : BitVec 2) : (s.respond d e).other = s.other := rfl
@[simp] theorem State.respond_world (d : Word) (e : BitVec 2) : (s.respond d e).world = s.world := rfl
@[simp] theorem State.respond_schedule (d : Word) (e : BitVec 2) : (s.respond d e).schedule = s.schedule := rfl
@[simp] theorem State.respond_trace (d : Word) (e : BitVec 2) : (s.respond d e).trace = s.trace := rfl
@[simp] theorem State.respond_responses (d : Word) (e : BitVec 2) : (s.respond d e).responses = s.responses := rfl
@[simp] theorem State.respond_freeCount (d : Word) (e : BitVec 2) : (s.respond d e).freeCount = s.freeCount := rfl

@[simp] theorem State.takeResponse_params : (s.takeResponse).params = s.params := rfl
@[simp] theorem State.takeResponse_phase : (s.takeResponse).phase = .idle := rfl
@[simp] theorem State.takeResponse_cmd : (s.takeResponse).cmd = s.cmd := rfl
@[simp] theorem State.takeResponse_latch : (s.takeResponse).latch = s.latch := rfl
@[simp] theorem State.takeResponse_rspData : (s.takeResponse).rspData = s.rspData := rfl
@[simp] theorem State.takeResponse_rspErr : (s.takeResponse).rspErr = s.rspErr := rfl
@[simp] theorem State.takeResponse_bank : (s.takeResponse).bank = s.bank := rfl
@[simp] theorem State.takeResponse_ext : (s.takeResponse).ext = s.ext := rfl
@[simp] theorem State.takeResponse_lock : (s.takeResponse).lock = s.lock := rfl
@[simp] theorem State.takeResponse_port : (s.takeResponse).port = s.port := rfl
@[simp] theorem State.takeResponse_device : (s.takeResponse).device = s.device := rfl
@[simp] theorem State.takeResponse_consumer : (s.takeResponse).consumer = s.consumer := rfl
@[simp] theorem State.takeResponse_other : (s.takeResponse).other = s.other := rfl
@[simp] theorem State.takeResponse_world : (s.takeResponse).world = s.world := rfl
@[simp] theorem State.takeResponse_schedule : (s.takeResponse).schedule = s.schedule := rfl
@[simp] theorem State.takeResponse_trace : (s.takeResponse).trace = s.trace := rfl
@[simp] theorem State.takeResponse_responses : (s.takeResponse).responses = s.responses ++ [s.response] := rfl
@[simp] theorem State.takeResponse_freeCount : (s.takeResponse).freeCount = s.freeCount := rfl

@[simp] theorem State.record_params (who : Master) (op : BusOp) : (s.record who op).params = s.params := rfl
@[simp] theorem State.record_phase (who : Master) (op : BusOp) : (s.record who op).phase = s.phase := rfl
@[simp] theorem State.record_cmd (who : Master) (op : BusOp) : (s.record who op).cmd = s.cmd := rfl
@[simp] theorem State.record_latch (who : Master) (op : BusOp) : (s.record who op).latch = s.latch := rfl
@[simp] theorem State.record_rspData (who : Master) (op : BusOp) : (s.record who op).rspData = s.rspData := rfl
@[simp] theorem State.record_rspErr (who : Master) (op : BusOp) : (s.record who op).rspErr = s.rspErr := rfl
@[simp] theorem State.record_bank (who : Master) (op : BusOp) : (s.record who op).bank = s.bank := rfl
@[simp] theorem State.record_ext (who : Master) (op : BusOp) : (s.record who op).ext = s.ext := rfl
@[simp] theorem State.record_lock (who : Master) (op : BusOp) : (s.record who op).lock = s.lock := rfl
@[simp] theorem State.record_port (who : Master) (op : BusOp) : (s.record who op).port = s.port := rfl
@[simp] theorem State.record_device (who : Master) (op : BusOp) : (s.record who op).device = s.device := rfl
@[simp] theorem State.record_consumer (who : Master) (op : BusOp) : (s.record who op).consumer = s.consumer := rfl
@[simp] theorem State.record_other (who : Master) (op : BusOp) : (s.record who op).other = s.other := rfl
@[simp] theorem State.record_world (who : Master) (op : BusOp) : (s.record who op).world = s.world := rfl
@[simp] theorem State.record_schedule (who : Master) (op : BusOp) : (s.record who op).schedule = s.schedule := rfl
@[simp] theorem State.record_trace (who : Master) (op : BusOp) : (s.record who op).trace = s.trace ++ [⟨who, op⟩] := rfl
@[simp] theorem State.record_responses (who : Master) (op : BusOp) : (s.record who op).responses = s.responses := rfl
@[simp] theorem State.record_freeCount (who : Master) (op : BusOp) : (s.record who op).freeCount = s.freeCount := rfl

@[simp] theorem State.bankWrite_params (a : Addr) (v : Word) : (s.bankWrite a v).params = s.params := rfl
@[simp] theorem State.bankWrite_phase (a : Addr) (v : Word) : (s.bankWrite a v).phase = s.phase := rfl
@[simp] theorem State.bankWrite_cmd (a : Addr) (v : Word) : (s.bankWrite a v).cmd = s.cmd := rfl
@[simp] theorem State.bankWrite_latch (a : Addr) (v : Word) : (s.bankWrite a v).latch = s.latch := rfl
@[simp] theorem State.bankWrite_rspData (a : Addr) (v : Word) : (s.bankWrite a v).rspData = s.rspData := rfl
@[simp] theorem State.bankWrite_rspErr (a : Addr) (v : Word) : (s.bankWrite a v).rspErr = s.rspErr := rfl
@[simp] theorem State.bankWrite_bank (a : Addr) (v : Word) : (s.bankWrite a v).bank = s.bank.write a.toNat v := rfl
@[simp] theorem State.bankWrite_ext (a : Addr) (v : Word) : (s.bankWrite a v).ext = s.ext := rfl
@[simp] theorem State.bankWrite_lock (a : Addr) (v : Word) : (s.bankWrite a v).lock = s.lock := rfl
@[simp] theorem State.bankWrite_port (a : Addr) (v : Word) : (s.bankWrite a v).port = s.port := rfl
@[simp] theorem State.bankWrite_device (a : Addr) (v : Word) : (s.bankWrite a v).device = s.device := rfl
@[simp] theorem State.bankWrite_consumer (a : Addr) (v : Word) : (s.bankWrite a v).consumer = s.consumer := rfl
@[simp] theorem State.bankWrite_other (a : Addr) (v : Word) : (s.bankWrite a v).other = s.other := rfl
@[simp] theorem State.bankWrite_world (a : Addr) (v : Word) : (s.bankWrite a v).world = s.world := rfl
@[simp] theorem State.bankWrite_schedule (a : Addr) (v : Word) : (s.bankWrite a v).schedule = s.schedule := rfl
@[simp] theorem State.bankWrite_trace (a : Addr) (v : Word) : (s.bankWrite a v).trace = s.trace := rfl
@[simp] theorem State.bankWrite_responses (a : Addr) (v : Word) : (s.bankWrite a v).responses = s.responses := rfl
@[simp] theorem State.bankWrite_freeCount (a : Addr) (v : Word) : (s.bankWrite a v).freeCount = s.freeCount := rfl

end Sys2Proof.Machine
end

