-- ==== Sys2Proof/Laws/Bus.lean ====
section
/-! SUPPORT. What one bus transaction does. -/

namespace Sys2Proof.Machine

variable (s : State)

/-- A write of the reference environment changes the bank alone. -/
theorem State.refPoke_eq (a : Addr) (v : Word) : s.refPoke a v = { s with bank := (s.refPoke a v).bank } := by
  unfold State.refPoke
  split
  · rfl
  · split <;> rfl

@[simp] theorem State.refPoke_params (a : Addr) (v : Word) : (s.refPoke a v).params = s.params := by rw [State.refPoke_eq]
@[simp] theorem State.refPoke_phase (a : Addr) (v : Word) : (s.refPoke a v).phase = s.phase := by rw [State.refPoke_eq]
@[simp] theorem State.refPoke_cmd (a : Addr) (v : Word) : (s.refPoke a v).cmd = s.cmd := by rw [State.refPoke_eq]
@[simp] theorem State.refPoke_latch (a : Addr) (v : Word) : (s.refPoke a v).latch = s.latch := by rw [State.refPoke_eq]
@[simp] theorem State.refPoke_rspData (a : Addr) (v : Word) : (s.refPoke a v).rspData = s.rspData := by rw [State.refPoke_eq]
@[simp] theorem State.refPoke_rspErr (a : Addr) (v : Word) : (s.refPoke a v).rspErr = s.rspErr := by rw [State.refPoke_eq]
@[simp] theorem State.refPoke_ext (a : Addr) (v : Word) : (s.refPoke a v).ext = s.ext := by rw [State.refPoke_eq]
@[simp] theorem State.refPoke_lock (a : Addr) (v : Word) : (s.refPoke a v).lock = s.lock := by rw [State.refPoke_eq]
@[simp] theorem State.refPoke_port (a : Addr) (v : Word) : (s.refPoke a v).port = s.port := by rw [State.refPoke_eq]
@[simp] theorem State.refPoke_device (a : Addr) (v : Word) : (s.refPoke a v).device = s.device := by rw [State.refPoke_eq]
@[simp] theorem State.refPoke_consumer (a : Addr) (v : Word) : (s.refPoke a v).consumer = s.consumer := by rw [State.refPoke_eq]
@[simp] theorem State.refPoke_other (a : Addr) (v : Word) : (s.refPoke a v).other = s.other := by rw [State.refPoke_eq]
@[simp] theorem State.refPoke_world (a : Addr) (v : Word) : (s.refPoke a v).world = s.world := by rw [State.refPoke_eq]
@[simp] theorem State.refPoke_schedule (a : Addr) (v : Word) : (s.refPoke a v).schedule = s.schedule := by rw [State.refPoke_eq]
@[simp] theorem State.refPoke_trace (a : Addr) (v : Word) : (s.refPoke a v).trace = s.trace := by rw [State.refPoke_eq]
@[simp] theorem State.refPoke_responses (a : Addr) (v : Word) : (s.refPoke a v).responses = s.responses := by rw [State.refPoke_eq]
@[simp] theorem State.refPoke_freeCount (a : Addr) (v : Word) : (s.refPoke a v).freeCount = s.freeCount := by rw [State.refPoke_eq]

/-- The stored words after a write of the reference environment (10_state.md R31). -/
theorem State.bankRead_refPoke (a b : Addr) (v : Word) :
    (s.refPoke a v).bankRead b =
      if b = a then
        if a = s.params.addrA then (s.bankRead a).extractLsb' 12 4 ++ v.extractLsb' 0 12
        else if a = s.params.addrB ∨ a = s.params.addrE then s.bankRead a
        else v
      else s.bankRead b := by
  unfold State.refPoke
  split
  · simp
  · split
    · split
      next h => rw [h]
      · rfl
    · simp

/-- A write of the reference environment leaves every other address alone. -/
theorem State.bankRead_refPoke_ne (a b : Addr) (v : Word) (h : b ≠ a) : (s.refPoke a v).bankRead b = s.bankRead b := by
  simp [State.bankRead_refPoke, h]

theorem State.refPoke_wf (a : Addr) (v : Word) (h : s.bank.wf = true) : (s.refPoke a v).bank.wf = true := by
  unfold State.refPoke
  split
  · exact State.bankWrite_wf s _ _ h
  · split
    · exact h
    · exact State.bankWrite_wf s _ _ h

/-- An answer of the device uses up no more than the device's own list, or one free word. -/
theorem State.answer_eq (a : Addr) :
    (s.answer a).2 = { s with device := (s.answer a).2.device, freeCount := (s.answer a).2.freeCount } := by
  unfold State.answer
  split <;> rfl

/-- In the reference environment a read changes nothing (10_state.md R30). -/
@[simp] theorem State.answer_reference (a : Addr) (h : s.device = .reference) : s.answer a = (s.refPeek a, s) := by
  simp [State.answer, h]

/-- An arbitrary device answers with the next word of its list. -/
@[simp] theorem State.answer_arbitrary (a : Addr) (w : Word) (ws : List Word) (h : s.device = .arbitrary (w :: ws)) :
    s.answer a = (w, { s with device := .arbitrary ws }) := by
  simp [State.answer, h]

@[simp] theorem State.answer_params (a : Addr) : (s.answer a).2.params = s.params := by rw [State.answer_eq]
@[simp] theorem State.answer_phase (a : Addr) : (s.answer a).2.phase = s.phase := by rw [State.answer_eq]
@[simp] theorem State.answer_cmd (a : Addr) : (s.answer a).2.cmd = s.cmd := by rw [State.answer_eq]
@[simp] theorem State.answer_latch (a : Addr) : (s.answer a).2.latch = s.latch := by rw [State.answer_eq]
@[simp] theorem State.answer_rspData (a : Addr) : (s.answer a).2.rspData = s.rspData := by rw [State.answer_eq]
@[simp] theorem State.answer_rspErr (a : Addr) : (s.answer a).2.rspErr = s.rspErr := by rw [State.answer_eq]
@[simp] theorem State.answer_bank (a : Addr) : (s.answer a).2.bank = s.bank := by rw [State.answer_eq]
@[simp] theorem State.answer_ext (a : Addr) : (s.answer a).2.ext = s.ext := by rw [State.answer_eq]
@[simp] theorem State.answer_lock (a : Addr) : (s.answer a).2.lock = s.lock := by rw [State.answer_eq]
@[simp] theorem State.answer_port (a : Addr) : (s.answer a).2.port = s.port := by rw [State.answer_eq]
@[simp] theorem State.answer_consumer (a : Addr) : (s.answer a).2.consumer = s.consumer := by rw [State.answer_eq]
@[simp] theorem State.answer_other (a : Addr) : (s.answer a).2.other = s.other := by rw [State.answer_eq]
@[simp] theorem State.answer_world (a : Addr) : (s.answer a).2.world = s.world := by rw [State.answer_eq]
@[simp] theorem State.answer_schedule (a : Addr) : (s.answer a).2.schedule = s.schedule := by rw [State.answer_eq]
@[simp] theorem State.answer_trace (a : Addr) : (s.answer a).2.trace = s.trace := by rw [State.answer_eq]
@[simp] theorem State.answer_responses (a : Addr) : (s.answer a).2.responses = s.responses := by rw [State.answer_eq]

@[simp] theorem State.busPeek_word (who : Master) (a : Addr) : (s.busPeek who a).1 = (s.answer a).1 := rfl
@[simp] theorem State.busPeek_device (who : Master) (a : Addr) : (s.busPeek who a).2.device = (s.answer a).2.device := rfl
@[simp] theorem State.busPeek_freeCount (who : Master) (a : Addr) :
    (s.busPeek who a).2.freeCount = (s.answer a).2.freeCount := rfl
@[simp] theorem State.busPeek_trace (who : Master) (a : Addr) :
    (s.busPeek who a).2.trace = s.trace ++ [⟨who, .peek a (s.answer a).1⟩] := by simp [State.busPeek]
@[simp] theorem State.busPeek_params (who : Master) (a : Addr) : (s.busPeek who a).2.params = s.params := by simp [State.busPeek]
@[simp] theorem State.busPeek_phase (who : Master) (a : Addr) : (s.busPeek who a).2.phase = s.phase := by simp [State.busPeek]
@[simp] theorem State.busPeek_cmd (who : Master) (a : Addr) : (s.busPeek who a).2.cmd = s.cmd := by simp [State.busPeek]
@[simp] theorem State.busPeek_latch (who : Master) (a : Addr) : (s.busPeek who a).2.latch = s.latch := by simp [State.busPeek]
@[simp] theorem State.busPeek_rspData (who : Master) (a : Addr) : (s.busPeek who a).2.rspData = s.rspData := by simp [State.busPeek]
@[simp] theorem State.busPeek_rspErr (who : Master) (a : Addr) : (s.busPeek who a).2.rspErr = s.rspErr := by simp [State.busPeek]
@[simp] theorem State.busPeek_bank (who : Master) (a : Addr) : (s.busPeek who a).2.bank = s.bank := by simp [State.busPeek]
@[simp] theorem State.busPeek_ext (who : Master) (a : Addr) : (s.busPeek who a).2.ext = s.ext := by simp [State.busPeek]
@[simp] theorem State.busPeek_lock (who : Master) (a : Addr) : (s.busPeek who a).2.lock = s.lock := by simp [State.busPeek]
@[simp] theorem State.busPeek_port (who : Master) (a : Addr) : (s.busPeek who a).2.port = s.port := by simp [State.busPeek]
@[simp] theorem State.busPeek_consumer (who : Master) (a : Addr) : (s.busPeek who a).2.consumer = s.consumer := by simp [State.busPeek]
@[simp] theorem State.busPeek_other (who : Master) (a : Addr) : (s.busPeek who a).2.other = s.other := by simp [State.busPeek]
@[simp] theorem State.busPeek_world (who : Master) (a : Addr) : (s.busPeek who a).2.world = s.world := by simp [State.busPeek]
@[simp] theorem State.busPeek_schedule (who : Master) (a : Addr) : (s.busPeek who a).2.schedule = s.schedule := by simp [State.busPeek]
@[simp] theorem State.busPeek_responses (who : Master) (a : Addr) : (s.busPeek who a).2.responses = s.responses := by simp [State.busPeek]

@[simp] theorem State.readLatch_latch (a : Addr) : (s.readLatch a).latch = (s.answer a).1 := rfl
@[simp] theorem State.readLatch_device (a : Addr) : (s.readLatch a).device = (s.answer a).2.device := rfl
@[simp] theorem State.readLatch_freeCount (a : Addr) : (s.readLatch a).freeCount = (s.answer a).2.freeCount := rfl
@[simp] theorem State.readLatch_trace (a : Addr) :
    (s.readLatch a).trace = s.trace ++ [⟨.prm, .peek a (s.answer a).1⟩] := by simp [State.readLatch]
@[simp] theorem State.readLatch_params (a : Addr) : (s.readLatch a).params = s.params := by simp [State.readLatch]
@[simp] theorem State.readLatch_phase (a : Addr) : (s.readLatch a).phase = s.phase := by simp [State.readLatch]
@[simp] theorem State.readLatch_cmd (a : Addr) : (s.readLatch a).cmd = s.cmd := by simp [State.readLatch]
@[simp] theorem State.readLatch_rspData (a : Addr) : (s.readLatch a).rspData = s.rspData := by simp [State.readLatch]
@[simp] theorem State.readLatch_rspErr (a : Addr) : (s.readLatch a).rspErr = s.rspErr := by simp [State.readLatch]
@[simp] theorem State.readLatch_bank (a : Addr) : (s.readLatch a).bank = s.bank := by simp [State.readLatch]
@[simp] theorem State.readLatch_ext (a : Addr) : (s.readLatch a).ext = s.ext := by simp [State.readLatch]
@[simp] theorem State.readLatch_lock (a : Addr) : (s.readLatch a).lock = s.lock := by simp [State.readLatch]
@[simp] theorem State.readLatch_port (a : Addr) : (s.readLatch a).port = s.port := by simp [State.readLatch]
@[simp] theorem State.readLatch_consumer (a : Addr) : (s.readLatch a).consumer = s.consumer := by simp [State.readLatch]
@[simp] theorem State.readLatch_other (a : Addr) : (s.readLatch a).other = s.other := by simp [State.readLatch]
@[simp] theorem State.readLatch_world (a : Addr) : (s.readLatch a).world = s.world := by simp [State.readLatch]
@[simp] theorem State.readLatch_schedule (a : Addr) : (s.readLatch a).schedule = s.schedule := by simp [State.readLatch]
@[simp] theorem State.readLatch_responses (a : Addr) : (s.readLatch a).responses = s.responses := by simp [State.readLatch]

/-- A write reaches the reference environment, and the trace whatever the device. -/
theorem State.busPoke_cases (who : Master) (a : Addr) (v : Word) :
    (s.device = .reference ∧ s.busPoke who a v = (s.refPoke a v).record who (.poke a v)) ∨
      (s.device ≠ .reference ∧ s.busPoke who a v = s.record who (.poke a v)) := by
  unfold State.busPoke
  split
  next h => exact .inl ⟨h, rfl⟩
  next h => exact .inr ⟨by simp [h], rfl⟩

@[simp] theorem State.busPoke_reference (who : Master) (a : Addr) (v : Word) (h : s.device = .reference) :
    s.busPoke who a v = (s.refPoke a v).record who (.poke a v) := by
  simp [State.busPoke, h]

@[simp] theorem State.busPoke_arbitrary (who : Master) (a : Addr) (v : Word) (ws : List Word)
    (h : s.device = .arbitrary ws) : s.busPoke who a v = s.record who (.poke a v) := by
  simp [State.busPoke, h]

@[simp] theorem State.busPoke_trace (who : Master) (a : Addr) (v : Word) :
    (s.busPoke who a v).trace = s.trace ++ [⟨who, .poke a v⟩] := by
  rcases s.busPoke_cases who a v with ⟨-, h⟩ | ⟨-, h⟩ <;> simp [h]
@[simp] theorem State.busPoke_params (who : Master) (a : Addr) (v : Word) : (s.busPoke who a v).params = s.params := by
  rcases s.busPoke_cases who a v with ⟨-, h⟩ | ⟨-, h⟩ <;> simp [h]
@[simp] theorem State.busPoke_phase (who : Master) (a : Addr) (v : Word) : (s.busPoke who a v).phase = s.phase := by
  rcases s.busPoke_cases who a v with ⟨-, h⟩ | ⟨-, h⟩ <;> simp [h]
@[simp] theorem State.busPoke_cmd (who : Master) (a : Addr) (v : Word) : (s.busPoke who a v).cmd = s.cmd := by
  rcases s.busPoke_cases who a v with ⟨-, h⟩ | ⟨-, h⟩ <;> simp [h]
@[simp] theorem State.busPoke_latch (who : Master) (a : Addr) (v : Word) : (s.busPoke who a v).latch = s.latch := by
  rcases s.busPoke_cases who a v with ⟨-, h⟩ | ⟨-, h⟩ <;> simp [h]
@[simp] theorem State.busPoke_rspData (who : Master) (a : Addr) (v : Word) : (s.busPoke who a v).rspData = s.rspData := by
  rcases s.busPoke_cases who a v with ⟨-, h⟩ | ⟨-, h⟩ <;> simp [h]
@[simp] theorem State.busPoke_rspErr (who : Master) (a : Addr) (v : Word) : (s.busPoke who a v).rspErr = s.rspErr := by
  rcases s.busPoke_cases who a v with ⟨-, h⟩ | ⟨-, h⟩ <;> simp [h]
@[simp] theorem State.busPoke_ext (who : Master) (a : Addr) (v : Word) : (s.busPoke who a v).ext = s.ext := by
  rcases s.busPoke_cases who a v with ⟨-, h⟩ | ⟨-, h⟩ <;> simp [h]
@[simp] theorem State.busPoke_lock (who : Master) (a : Addr) (v : Word) : (s.busPoke who a v).lock = s.lock := by
  rcases s.busPoke_cases who a v with ⟨-, h⟩ | ⟨-, h⟩ <;> simp [h]
@[simp] theorem State.busPoke_port (who : Master) (a : Addr) (v : Word) : (s.busPoke who a v).port = s.port := by
  rcases s.busPoke_cases who a v with ⟨-, h⟩ | ⟨-, h⟩ <;> simp [h]
@[simp] theorem State.busPoke_device (who : Master) (a : Addr) (v : Word) : (s.busPoke who a v).device = s.device := by
  rcases s.busPoke_cases who a v with ⟨-, h⟩ | ⟨-, h⟩ <;> simp [h]
@[simp] theorem State.busPoke_consumer (who : Master) (a : Addr) (v : Word) : (s.busPoke who a v).consumer = s.consumer := by
  rcases s.busPoke_cases who a v with ⟨-, h⟩ | ⟨-, h⟩ <;> simp [h]
@[simp] theorem State.busPoke_other (who : Master) (a : Addr) (v : Word) : (s.busPoke who a v).other = s.other := by
  rcases s.busPoke_cases who a v with ⟨-, h⟩ | ⟨-, h⟩ <;> simp [h]
@[simp] theorem State.busPoke_world (who : Master) (a : Addr) (v : Word) : (s.busPoke who a v).world = s.world := by
  rcases s.busPoke_cases who a v with ⟨-, h⟩ | ⟨-, h⟩ <;> simp [h]
@[simp] theorem State.busPoke_schedule (who : Master) (a : Addr) (v : Word) : (s.busPoke who a v).schedule = s.schedule := by
  rcases s.busPoke_cases who a v with ⟨-, h⟩ | ⟨-, h⟩ <;> simp [h]
@[simp] theorem State.busPoke_responses (who : Master) (a : Addr) (v : Word) : (s.busPoke who a v).responses = s.responses := by
  rcases s.busPoke_cases who a v with ⟨-, h⟩ | ⟨-, h⟩ <;> simp [h]
@[simp] theorem State.busPoke_freeCount (who : Master) (a : Addr) (v : Word) : (s.busPoke who a v).freeCount = s.freeCount := by
  rcases s.busPoke_cases who a v with ⟨-, h⟩ | ⟨-, h⟩ <;> simp [h]

/-- A bus write leaves every other address alone, whatever the device. -/
theorem State.bankRead_busPoke_ne (who : Master) (a b : Addr) (v : Word) (h : b ≠ a) :
    (s.busPoke who a v).bankRead b = s.bankRead b := by
  rcases s.busPoke_cases who a v with ⟨-, hp⟩ | ⟨-, hp⟩
  · rw [hp]; exact s.bankRead_refPoke_ne a b v h
  · rw [hp]; rfl

theorem State.busPoke_wf (who : Master) (a : Addr) (v : Word) (h : s.bank.wf = true) :
    (s.busPoke who a v).bank.wf = true := by
  rcases s.busPoke_cases who a v with ⟨-, hp⟩ | ⟨-, hp⟩
  · rw [hp]; exact s.refPoke_wf a v h
  · rw [hp]; exact h

end Sys2Proof.Machine
end

