-- ==== Sys2Proof/Laws/PerInstr.lean ====
section
/-! SUPPORT. Per operation: the upper byte of its command word is the match of its row (30_encoding.md R55). -/

namespace Sys2Proof.Laws.OpcodeRow

/-- The `match` column of 30_encoding.md R55. -/
def rowMatch : Instr → Word
  | .getpin _ => 0x0000#16
  | .setpinLow _ => 0x0400#16
  | .setpinHigh _ => 0x0500#16
  | .setpinHiz _ => 0x0600#16

/-- Under the row's mask `0xFF00` the word of an operation is the row's match. -/
def Statement (i : Instr) : Prop := encode i &&& 0xFF00#16 = rowMatch i

theorem upper_byte (op : BitVec 1) (st : BitVec 2) (p : BitVec 8) :
    ((0#5 ++ op ++ st ++ p : Word) &&& 0xFF00#16) = 0#5 ++ op ++ st ++ 0#8 := by
  revert op st p; decide

theorem getpin (pin : Nat) : Statement (.getpin pin) := upper_byte 0 0 _
theorem setpinLow (pin : Nat) : Statement (.setpinLow pin) := upper_byte 1 0 _
theorem setpinHigh (pin : Nat) : Statement (.setpinHigh pin) := upper_byte 1 1 _
theorem setpinHiz (pin : Nat) : Statement (.setpinHiz pin) := upper_byte 1 2 _

end Sys2Proof.Laws.OpcodeRow
end

