-- ==== Sys2Proof/Laws/Step.lean ====
section
/-! SUPPORT. What the accept step, a meaning, an agent's slot and a step can do, said once each. -/

namespace Sys2Proof.Machine

variable {s t : State} {pin : Nat}

/-- The acceptance of a command on a valid pin (41_rmw_sequencer.md R77). -/
theorem State.accept_valid (c : Word) (h : validPin pin = true) :
    s.accept c pin = { s with cmd := c, port := none, phase := .rd1 } := by
  simp [State.accept, h, State.loadCommand, State.goto]

/-- The acceptance of a command on an invalid pin (60_exceptions.md R98). -/
theorem State.accept_invalid (c : Word) (h : validPin pin = false) :
    s.accept c pin =
      { s with cmd := c, port := none, rspData := s.params.sentinel, rspErr := errInvalidPin, phase := .resp } := by
  simp [State.accept, h, State.loadCommand, State.raiseInvalidPin, State.raiseError, State.respond]

/-- The acceptance of a reserved word (60_exceptions.md R99). -/
theorem State.acceptReserved_eq (c : Word) :
    s.acceptReserved c =
      { s with cmd := c, port := none, rspData := s.params.sentinel, rspErr := errReserved, phase := .resp } := rfl

/-- All that a step of `GETPIN` can do. -/
theorem execGetpin_next (h : execGetpin pin s = .next t) :
    (s.phase = .idle ∧ t = s.accept (encode (.getpin pin)) pin) ∨
      (∃ l, s.phase = .rd1 ∧ inLoc s.params pin = some l ∧
        t = (s.readLatch l.addr).respond (zext16 (getBit (s.answer l.addr).1 l.off)) errNone) ∨
      (s.phase = .resp ∧ t = s) := by
  unfold execGetpin at h
  split at h
  next hp => exact .inl ⟨hp, (Host.Outcome.next.inj h).symm⟩
  next hp =>
    split at h
    next l hl => exact .inr (.inl ⟨l, hp, hl, (Host.Outcome.next.inj h).symm⟩)
    next => cases h
  next => cases h
  next => cases h
  next => cases h
  next hp => exact .inr (.inr ⟨hp, (Host.Outcome.next.inj h).symm⟩)

/-- All that a step of `SETPIN.HIZ` can do. -/
theorem execSetpinHiz_next (h : execSetpinHiz pin s = .next t) :
    (s.phase = .idle ∧ t = s.accept (encode (.setpinHiz pin)) pin) ∨
      (∃ d, s.phase = .rd1 ∧ dirLoc s.params pin = some d ∧ t = (s.readLatch d.addr).goto .wr1) ∨
      (∃ d, s.phase = .wr1 ∧ dirLoc s.params pin = some d ∧
        t = (s.busPoke .prm d.addr (clrBit s.latch d.off)).respond 0x0000#16 errNone) ∨
      (s.phase = .resp ∧ t = s) := by
  unfold execSetpinHiz at h
  split at h
  next hp => exact .inl ⟨hp, (Host.Outcome.next.inj h).symm⟩
  next hp =>
    split at h
    next d hd => exact .inr (.inl ⟨d, hp, hd, (Host.Outcome.next.inj h).symm⟩)
    next => cases h
  next hp =>
    split at h
    next d hd => exact .inr (.inr (.inl ⟨d, hp, hd, (Host.Outcome.next.inj h).symm⟩))
    next => cases h
  next => cases h
  next => cases h
  next hp => exact .inr (.inr (.inr ⟨hp, (Host.Outcome.next.inj h).symm⟩))

/-- All that a step of `SETPIN.LOW` can do. -/
theorem execSetpinLow_next (h : execSetpinLow pin s = .next t) :
    (s.phase = .idle ∧ t = s.accept (encode (.setpinLow pin)) pin) ∨
      (∃ o, s.phase = .rd1 ∧ outLoc s.params pin = some o ∧ t = (s.readLatch o.addr).goto .wr1) ∨
      (∃ o, s.phase = .wr1 ∧ outLoc s.params pin = some o ∧
        t = (s.busPoke .prm o.addr (clrBit s.latch o.off)).goto .rd2) ∨
      (∃ d, s.phase = .rd2 ∧ dirLoc s.params pin = some d ∧ t = (s.readLatch d.addr).goto .wr2) ∨
      (∃ d, s.phase = .wr2 ∧ dirLoc s.params pin = some d ∧
        t = (s.busPoke .prm d.addr (setBit s.latch d.off)).respond 0x0000#16 errNone) ∨
      (s.phase = .resp ∧ t = s) := by
  unfold execSetpinLow at h
  split at h
  next hp => exact .inl ⟨hp, (Host.Outcome.next.inj h).symm⟩
  next hp =>
    split at h
    next o ho => exact .inr (.inl ⟨o, hp, ho, (Host.Outcome.next.inj h).symm⟩)
    next => cases h
  next hp =>
    split at h
    next o ho => exact .inr (.inr (.inl ⟨o, hp, ho, (Host.Outcome.next.inj h).symm⟩))
    next => cases h
  next hp =>
    split at h
    next d hd => exact .inr (.inr (.inr (.inl ⟨d, hp, hd, (Host.Outcome.next.inj h).symm⟩)))
    next => cases h
  next hp =>
    split at h
    next d hd => exact .inr (.inr (.inr (.inr (.inl ⟨d, hp, hd, (Host.Outcome.next.inj h).symm⟩))))
    next => cases h
  next hp => exact .inr (.inr (.inr (.inr (.inr ⟨hp, (Host.Outcome.next.inj h).symm⟩))))

/-- All that a step of `SETPIN.HIGH` can do. -/
theorem execSetpinHigh_next (h : execSetpinHigh pin s = .next t) :
    (s.phase = .idle ∧ t = s.accept (encode (.setpinHigh pin)) pin) ∨
      (∃ o, s.phase = .rd1 ∧ outLoc s.params pin = some o ∧ t = (s.readLatch o.addr).goto .wr1) ∨
      (∃ o, s.phase = .wr1 ∧ outLoc s.params pin = some o ∧
        t = (s.busPoke .prm o.addr (setBit s.latch o.off)).goto .rd2) ∨
      (∃ d, s.phase = .rd2 ∧ dirLoc s.params pin = some d ∧ t = (s.readLatch d.addr).goto .wr2) ∨
      (∃ d, s.phase = .wr2 ∧ dirLoc s.params pin = some d ∧
        t = (s.busPoke .prm d.addr (setBit s.latch d.off)).respond 0x0000#16 errNone) ∨
      (s.phase = .resp ∧ t = s) := by
  unfold execSetpinHigh at h
  split at h
  next hp => exact .inl ⟨hp, (Host.Outcome.next.inj h).symm⟩
  next hp =>
    split at h
    next o ho => exact .inr (.inl ⟨o, hp, ho, (Host.Outcome.next.inj h).symm⟩)
    next => cases h
  next hp =>
    split at h
    next o ho => exact .inr (.inr (.inl ⟨o, hp, ho, (Host.Outcome.next.inj h).symm⟩))
    next => cases h
  next hp =>
    split at h
    next d hd => exact .inr (.inr (.inr (.inl ⟨d, hp, hd, (Host.Outcome.next.inj h).symm⟩)))
    next => cases h
  next hp =>
    split at h
    next d hd => exact .inr (.inr (.inr (.inr (.inl ⟨d, hp, hd, (Host.Outcome.next.inj h).symm⟩))))
    next => cases h
  next hp => exact .inr (.inr (.inr (.inr (.inr ⟨hp, (Host.Outcome.next.inj h).symm⟩))))

/-- All that a slot of the block can do. -/
theorem blockStep_next (h : blockStep s = .next t) :
    (s.fetch = .wait ∧ t = s) ∨ (∃ i, s.fetch = .command i ∧ exec i s = .next t) ∨
      (∃ w, s.fetch = .reserved w ∧ t = s.acceptReserved w) := by
  unfold blockStep at h
  split at h
  next hf => exact .inl ⟨hf, (Host.Outcome.next.inj h).symm⟩
  next i hf => exact .inr (.inl ⟨i, hf, h⟩)
  next w hf => exact .inr (.inr ⟨w, hf, (Host.Outcome.next.inj h).symm⟩)
  next => cases h

/-- All that a slot of `CONSUMER` can do. -/
theorem consumerStep_cases (s : State) :
    consumerStep s = s ∨
      (∃ rest, s.consumer = .lock :: rest ∧ s.lock = .free ∧
        consumerStep s = { s with lock := .consumer, consumer := rest }) ∨
      (∃ w rest, s.consumer = .present w :: rest ∧ s.port = none ∧
        consumerStep s = { s with port := some w, consumer := rest }) ∨
      (∃ rest, (s.consumer = .take :: rest ∨ s.consumer = [] ∧ rest = []) ∧ s.phase = .resp ∧
        consumerStep s = { s.takeResponse with consumer := rest }) ∨
      (∃ rest, s.consumer = .unlock :: rest ∧
        consumerStep s = { s with lock := if s.lock = .consumer then .free else s.lock, consumer := rest }) := by
  unfold consumerStep
  split
  next h =>
    unfold consumerTake
    split
    next hp => exact .inr (.inr (.inr (.inl ⟨[], .inr ⟨h, rfl⟩, hp, rfl⟩)))
    next => exact .inl rfl
  next rest h =>
    unfold consumerLock
    split
    next hl => exact .inr (.inl ⟨rest, h, hl, rfl⟩)
    next => exact .inl rfl
    next => exact .inl rfl
  next w rest h =>
    unfold consumerPresent
    split
    next hp => exact .inr (.inr (.inl ⟨w, rest, h, hp, rfl⟩))
    next => exact .inl rfl
  next rest h =>
    unfold consumerTake
    split
    next hp => exact .inr (.inr (.inr (.inl ⟨rest, .inl h, hp, rfl⟩)))
    next => exact .inl rfl
  next rest h => exact .inr (.inr (.inr (.inr ⟨rest, h, rfl⟩)))

/-- All that a slot of `OTHER` can do. -/
theorem otherStep_cases (s : State) :
    otherStep s = s ∨
      (∃ rest, s.other = .lock :: rest ∧ s.lock = .free ∧ otherStep s = { s with lock := .other, other := rest }) ∨
      (∃ a rest, s.other = .peek a :: rest ∧ s.lock ≠ .consumer ∧
        otherStep s = { (s.busPeek .other a).2 with other := rest }) ∨
      (∃ a v rest, s.other = .poke a v :: rest ∧ s.lock ≠ .consumer ∧
        otherStep s = { s.busPoke .other a v with other := rest }) ∨
      (∃ rest, s.other = .unlock :: rest ∧
        otherStep s = { s with lock := if s.lock = .other then .free else s.lock, other := rest }) := by
  unfold otherStep
  split
  next => exact .inl rfl
  next rest h =>
    unfold otherLock
    split
    next hl => exact .inr (.inl ⟨rest, h, hl, rfl⟩)
    next => exact .inl rfl
    next => exact .inl rfl
  next a rest h =>
    unfold otherBus
    split
    next => exact .inl rfl
    next hl => exact .inr (.inr (.inl ⟨a, rest, h, hl, rfl⟩))
  next a v rest h =>
    unfold otherBus
    split
    next => exact .inl rfl
    next hl => exact .inr (.inr (.inr (.inl ⟨a, v, rest, h, hl, rfl⟩)))
  next rest h => exact .inr (.inr (.inr (.inr ⟨rest, h, rfl⟩)))

/-- A slot of `WORLD` moves the pads alone. -/
theorem worldStep_eq (s : State) :
    worldStep s = { s with ext := (worldStep s).ext, world := (worldStep s).world } := by
  unfold worldStep
  split <;> rfl

/-- Taking a slot off the schedule changes the schedule alone. -/
theorem State.nextSlot_eq (s : State) : s.nextSlot.2 = { s with schedule := s.nextSlot.2.schedule } := by
  unfold State.nextSlot
  split <;> rfl

/-- All that a step can do: a slot of one agent, in the state with that slot taken off the schedule. -/
theorem step_next (h : step s = .next t) :
    ∃ u, u = { s with schedule := u.schedule } ∧
      (blockStep u = .next t ∨ t = consumerStep u ∨ t = otherStep u ∨ t = worldStep u ∨ t = resetBlock u) := by
  refine ⟨s.nextSlot.2, s.nextSlot_eq, ?_⟩
  unfold step slotStep at h
  split at h
  · exact .inl h
  · exact .inr (.inl (Host.Outcome.next.inj h).symm)
  · exact .inr (.inr (.inl (Host.Outcome.next.inj h).symm))
  · exact .inr (.inr (.inr (.inl (Host.Outcome.next.inj h).symm)))
  · exact .inr (.inr (.inr (.inr (Host.Outcome.next.inj h).symm)))

/-- A step stops nowhere but in the block's slot. -/
theorem step_stops (h : ∀ t, step s ≠ .next t) : ∀ t, blockStep s.nextSlot.2 ≠ .next t := by
  intro t ht
  unfold step slotStep at h
  split at h
  · exact h t ht
  all_goals exact h _ rfl

end Sys2Proof.Machine
end

