-- ==== Sys2Proof/Tests/Slice0.lean ====
section
/-! SUPPORT. Tests, their expected values from spec/95_test_vectors.md, and for each statement with premises a theorem that
something meets them together. -/

namespace Sys2Proof.Tests

open Sys2Proof.Machine

/-- The machine after reset, but for the phase, `CMD` and `LATCH`. -/
def at' (ph : Phase) (c w : Word) : State := { State.reset with phase := ph, cmd := c, latch := w }

/-- An idle block with a command on its port. -/
def ready (c : Word) : State := { State.reset with port := some c }

/-- The next state, where there is one. -/
def after (o : Host.Outcome State Fault Refusal) : Option State :=
  match o with
  | .next t => some t
  | .fault _ => none
  | .refused _ => none

/-! The checks of well-formedness and of the parameters. -/

theorem test_wf_refuses_wide_getpin : (Instr.getpin 256).wf = false := by decide
theorem test_wf_refuses_wide_setpin_low : (Instr.setpinLow 256).wf = false := by decide
theorem test_wf_refuses_wide_setpin_high : (Instr.setpinHigh 256).wf = false := by decide
theorem test_wf_refuses_wide_setpin_hiz : (Instr.setpinHiz 256).wf = false := by decide
theorem test_params_refuse_equal_addresses : ¬ [0#16, 1#16, 1#16, 3#16, 4#16, 5#16, 6#16].Nodup := by decide
theorem test_params_refuse_sentinel_one : ¬ (1#16 ≠ 0x0000#16 ∧ 1#16 ≠ 0x0001#16) := by decide
theorem test_memory_wf_refuses_unlisted_word : Memory.wf [(3, 0x0000#16)] = false := by decide
theorem test_memory_wf_refuses_order : Memory.wf [(3, 0x0001#16), (2, 0x0001#16)] = false := by decide

/-! Words written out from 30_encoding.md R55 (V1). -/

theorem test_decode_getpin_39 : decode 0b0000000000100111#16 = .ok (.getpin 39) := by decide
theorem test_decode_setpin_low_25 : decode 0b0000010000011001#16 = .ok (.setpinLow 25) := by decide
theorem test_decode_setpin_high_39 : decode 0b0000010100100111#16 = .ok (.setpinHigh 39) := by decide
theorem test_decode_setpin_hiz_39 : decode 0b0000011000100111#16 = .ok (.setpinHiz 39) := by decide
theorem test_decode_getpin_255 : decode 0x00FF#16 = .ok (.getpin 255) := by decide
theorem test_decode_reserved_getpin_state : decode 0x0127#16 = .error .getpinWithState := by decide
theorem test_decode_reserved_pin_state : decode 0x0727#16 = .error .noSuchPinState := by decide
theorem test_decode_reserved_bit_11 : decode 0x0827#16 = .error .zeroFieldSet := by decide
theorem test_decode_reserved_bit_15 : decode 0x8527#16 = .error .zeroFieldSet := by decide
theorem test_encode_setpin_hiz_25 : encode (.setpinHiz 25) = 0x0619#16 := by decide
theorem test_decode_table_word : decodeTableWord 16 0x0527 = some (.setpinHigh 39) := by decide
theorem test_text_of_setpin_hiz : (Instr.setpinHiz 39).callText = "setPin(39, HighImpedance)" := by decide

/-! Places of bits (10_state.md R26, V3). -/

theorem test_locs_37 : inLoc Params.standard 37 = some ⟨0x0000#16, 12⟩ ∧ outLoc Params.standard 37 = some ⟨0x0000#16, 8⟩ ∧
    dirLoc Params.standard 37 = some ⟨0x0000#16, 4⟩ := by decide
theorem test_locs_25 : inLoc Params.standard 25 = some ⟨0x0001#16, 4⟩ ∧ outLoc Params.standard 25 = some ⟨0x0002#16, 4⟩ ∧
    dirLoc Params.standard 25 = some ⟨0x0003#16, 4⟩ := by decide
theorem test_locs_20 : inLoc Params.standard 20 = some ⟨0x0004#16, 15⟩ ∧ outLoc Params.standard 20 = some ⟨0x0005#16, 15⟩ ∧
    dirLoc Params.standard 20 = some ⟨0x0006#16, 15⟩ := by decide

/-! One step of each operation (V4 to V6, V8). -/

/-- V4: bits 10 and 12 are not the input bit of pin 39. -/
theorem test_getpin_39_other_bits :
    (after (exec (.getpin 39) { at' .rd1 0x0027#16 0 with device := .arbitrary [0x1400#16] })).map State.response =
      some ⟨0x0000#16, 0b00#2⟩ := by decide
/-- V4: `GETPIN 39` reads bit 14. -/
theorem test_getpin_39_input_bit :
    (after (exec (.getpin 39) { at' .rd1 0x0027#16 0 with device := .arbitrary [0x4440#16] })).map State.response =
      some ⟨0x0001#16, 0b00#2⟩ := by decide
/-- V5: `SETPIN.HIZ 39` with `0x4440` writes `0x4400` to `A`. -/
theorem test_setpin_hiz_39_write :
    (after (exec (.setpinHiz 39) (at' .wr1 0x0627#16 0x4440#16))).map State.trace =
      some [⟨.prm, .poke 0x0000#16 0x4400#16⟩] := by decide
/-- V5: `SETPIN.HIZ 12` reads the direction register `G`. -/
theorem test_setpin_hiz_12_read :
    (after (exec (.setpinHiz 12) { at' .rd1 0x060C#16 0 with bank := [(6, 0xA5A5#16)] })).map State.latch =
      some 0xA5A5#16 := by decide
/-- V6: the first write of `SETPIN.LOW 25` with `0xFFFF` is `0xFFEF` to `C`. -/
theorem test_setpin_low_25_output :
    (after (exec (.setpinLow 25) (at' .wr1 0x0419#16 0xFFFF#16))).map State.trace =
      some [⟨.prm, .poke 0x0002#16 0xFFEF#16⟩] := by decide
/-- V6: its second write with `0xFFEF` is `0xFFFF` to `D`. -/
theorem test_setpin_low_25_direction :
    (after (exec (.setpinLow 25) (at' .wr2 0x0419#16 0xFFEF#16))).map State.trace =
      some [⟨.prm, .poke 0x0003#16 0xFFFF#16⟩] := by decide
/-- V6: `SETPIN.HIGH 39` with `0xF00F` writes `0xF40F`, of which `A` stores bits 11:0. -/
theorem test_setpin_high_39_output :
    (after (exec (.setpinHigh 39) (at' .wr1 0x0527#16 0xF00F#16))).map State.bank =
      some [(0, 0x040F#16)] := by decide
/-- V6: its second write with `0x0003` is `0x0043`: the word read afresh, the first write's bit lost. -/
theorem test_setpin_high_39_direction :
    (after (exec (.setpinHigh 39) (at' .wr2 0x0527#16 0x0003#16))).map State.trace =
      some [⟨.prm, .poke 0x0000#16 0x0043#16⟩] := by decide
/-- V8: `SETPIN.HIGH 41`. -/
theorem test_invalid_pin : (after (step (ready 0x0529#16))).map State.response = some ⟨0xFFFF#16, 0b01#2⟩ := by decide
/-- V8: a reserved word with an invalid `PIN` field. -/
theorem test_reserved_word : (after (step (ready 0x0729#16))).map State.response = some ⟨0xFFFF#16, 0b10#2⟩ := by decide
/-- P3: pins 38 and 40 high on their lines, `A` stored as `0x022A`, reads `0xA22A`. -/
theorem test_peek_combined :
    State.refPeek { State.reset with bank := [(0, 0x022A#16)], ext := ⟨0, 0, 0b1000#4⟩ } 0x0000#16 = 0xA22A#16 := by decide
theorem test_placed_command_is_accepted :
    (after (step (State.reset.withFetchWord 16 0x0027))).map State.phase = some .rd1 := by decide

/-! Something meets the premises of each statement. -/

theorem test_premises_DecodeOfEncode : (Instr.setpinHiz 255).wf = true := by decide
theorem test_premises_EncodeOfDecode : decode 0x06FF#16 = .ok (.setpinHiz 255) := by decide
theorem test_premises_EncodedWords : 0 ≤ 255 ∧ 255 ≤ 255 := by decide
theorem test_premises_InvalidPins : validPin 4 = false ∧ validPin 5 = true ∧ validPin 40 = true ∧ validPin 41 = false := by
  decide
theorem test_premises_PlacesOfPins :
    (37 ≤ 40 ∧ 40 ≤ 40) ∧ (21 ≤ 21 ∧ 36 ≤ 36) ∧ (5 ≤ 5 ∧ 20 ≤ 20) ∧ (4 < 5 ∨ 40 < 4) := by decide
theorem test_premises_OffsetsAndMasks_ends : validPin 5 = true ∧ validPin 36 = true ∧ validPin 37 = true ∧ 15 ≤ 15 := by
  decide
theorem test_premises_PinBitsDisjoint : validPin 36 = true ∧ validPin 37 = true ∧ 36 ≠ 37 := by decide
theorem test_premises_BitLaws :
    15 ≤ 15 ∧ 0 ≠ 15 ∧ getBit 0x8000#16 15 = 1 ∧ getBit 0x7FFF#16 15 = 0 := by decide
theorem test_premises_AcceptsValidCommand : (ready 0x0005#16).phase = .idle ∧ validPin (Instr.getpin 5).pin = true := by
  decide
theorem test_premises_InvalidPinReported :
    (ready 0x0029#16).phase = .idle ∧ validPin (Instr.getpin 41).pin = false ∧ validPin (Instr.setpinLow 40).pin = true := by
  decide
theorem test_premises_ReservedWordReported :
    (ready 0x0100#16).nextSlot.1 = .prm ∧ (ready 0x0100#16).phase = .idle ∧ (ready 0x0100#16).port = some 0x0100#16 ∧
      decode 0x0100#16 = .error .getpinWithState := by decide
theorem test_premises_GetpinCompletes : (at' .rd1 0x0025#16 0).phase = .rd1 ∧ validPin 37 = true := by decide
theorem test_premises_SetpinHizCompletes :
    validPin 20 = true ∧ (at' .rd1 0x0614#16 0).phase = .rd1 ∧ (at' .wr1 0x0614#16 0).phase = .wr1 ∧
      (at' .wr1 0x0614#16 0).device = .reference ∧ 0x0005#16 ≠ Params.standard.addrG := by decide
theorem test_premises_SetpinLevelCompletes :
    validPin 40 = true ∧ (at' .rd1 0x0428#16 0).phase = .rd1 ∧ (at' .wr1 0x0428#16 0).phase = .wr1 ∧
      (at' .rd2 0x0428#16 0).phase = .rd2 ∧ (at' .wr2 0x0428#16 0).phase = .wr2 ∧
      (at' .wr2 0x0428#16 0).device = .reference ∧ 0x0001#16 ≠ Params.standard.addrA := by decide
theorem test_premises_ExecFrame :
    ∃ t, exec (.setpinLow 25) (at' .wr1 0x0419#16 0) = .next t ∧ (at' .wr1 0x0419#16 0).phase ≠ .idle ∧ t.phase ≠ .resp ∧
      writeLoc Params.standard (.setpinLow 25) .wr1 = some ⟨0x0002#16, 4⟩ ∧ 0x0003#16 ≠ 0x0002#16 :=
  ⟨_, rfl, by decide, by decide, by decide, by decide⟩
theorem test_premises_ExecFrame_no_write :
    ∃ t, exec (.getpin 5) (ready 0x0005#16) = .next t ∧ writeLoc Params.standard (.getpin 5) .idle = none ∧
      (ready 0x0005#16).phase ≠ .rd1 ∧ (ready 0x0005#16).phase ≠ .rd2 := ⟨_, rfl, by decide, by decide, by decide⟩
theorem test_premises_WrittenWordIsLatch :
    writeLoc Params.standard (.setpinHigh 40) (at' .wr1 0x0528#16 0).phase = some ⟨0x0000#16, 11⟩ ∧
      (at' .wr1 0x0528#16 0).device = .reference := by decide
theorem test_premises_BlockHoldsResponse : (at' .resp 0x0005#16 0).phase = .resp := by decide
theorem test_premises_StopsOutsideItsPhases :
    (at' .wr1 0x0005#16 0).phase ∈ [.rd1, .wr1, .rd2, .wr2] ∧ phaseOf (.getpin 5) .wr1 = false ∧ validPin 41 = false := by
  decide
theorem test_premises_GetpinUsesOneBit :
    ∃ s t u x, s.phase = .rd1 ∧ t.phase = .rd1 ∧ t.params = s.params ∧ inLoc s.params 39 = some ⟨0x0000#16, 14⟩ ∧
      (s.answer 0x0000#16).1.getLsbD 14 = (t.answer 0x0000#16).1.getLsbD 14 ∧
      exec (.getpin 39) s = .next u ∧ exec (.getpin 39) t = .next x :=
  ⟨{ at' .rd1 0x0027#16 0 with device := .arbitrary [0x4000#16] },
    { at' .rd1 0x0027#16 0 with device := .arbitrary [0x4440#16] }, _, _, rfl, rfl, rfl, by decide, by decide, rfl, rfl⟩
theorem test_premises_CommandTraceForEveryAnswer :
    (Instr.setpinHigh 39).wf = true ∧ validPin 39 = true ∧
      ∃ s, s = { ready (encode (.setpinHigh 39)) with device := .arbitrary [0x0000#16, 0x0003#16] } ∧ s.schedule = [] ∧
        s.phase = .idle ∧ s.port = some (encode (.setpinHigh 39)) ∧ s.device = .arbitrary [0x0000#16, 0x0003#16] :=
  ⟨by decide, by decide, _, rfl, rfl, rfl, rfl, rfl⟩
/-- A schedule with `OTHER` and `WORLD` between the block's slots. -/
def mixed : State :=
  { ready (encode (.getpin 40)) with
    lock := .consumer
    other := [.poke 0x0000#16 0xFFFF#16]
    schedule := [.prm, .other, .prm, .world] }
theorem test_premises_BigStepUnderLock :
    (Instr.getpin 40).wf = true ∧ validPin 40 = true ∧ mixed.phase = .idle ∧ mixed.port = some (encode (.getpin 40)) ∧
      mixed.lock = .consumer ∧ mixed.device = .reference ∧
      (∀ m ∈ mixed.schedule, m = .prm ∨ m = .other ∨ m = .world) ∧
      mixed.schedule.count .prm = blockSteps (.getpin 40) ∧ mixed.world = [] ∧
      inLoc mixed.params 40 = some ⟨0x0000#16, 15⟩ := by decide
theorem test_premises_SetpinDrivesPin :
    40 ≤ 255 ∧ validPin 40 = true ∧ (ready (encode (drive true 40))).schedule = [] ∧
      (ready (encode (drive true 40))).phase = .idle ∧
      (ready (encode (drive true 40))).port = some (encode (drive true 40)) ∧
      (ready (encode (drive true 40))).device = .reference := by decide
theorem test_premises_HizReleasesPin :
    5 ≤ 255 ∧ validPin 5 = true ∧ (ready (encode (.setpinHiz 5))).schedule = [] ∧ (ready (encode (.setpinHiz 5))).phase = .idle ∧
      (ready (encode (.setpinHiz 5))).port = some (encode (.setpinHiz 5)) ∧
      (ready (encode (.setpinHiz 5))).device = .reference := by decide
theorem test_premises_GetpinReadsLine :
    21 ≤ 255 ∧ validPin 21 = true ∧ (ready (encode (.getpin 21))).schedule = [] ∧ (ready (encode (.getpin 21))).phase = .idle ∧
      (ready (encode (.getpin 21))).port = some (encode (.getpin 21)) ∧
      (ready (encode (.getpin 21))).device = .reference := by decide
theorem test_premises_RoundTrip :
    ∃ s : State, s.schedule = [] ∧ s.phase = .idle ∧ s.port = some (encode (drive false 37)) ∧ s.device = .reference ∧
      s.consumer = [.take, .present (encode (.getpin 37))] ∧ 37 ≤ 255 ∧ validPin 37 = true :=
  ⟨{ ready (encode (drive false 37)) with consumer := [.take, .present (encode (.getpin 37))] },
    rfl, rfl, rfl, rfl, rfl, by decide, by decide⟩
theorem test_premises_NeverDrivesStaleLevel :
    36 ≤ 255 ∧ validPin 36 = true ∧ (ready (encode (drive true 36))).schedule = [] ∧
      (ready (encode (drive true 36))).phase = .idle ∧
      (ready (encode (drive true 36))).port = some (encode (drive true 36)) ∧
      (ready (encode (drive true 36))).device = .reference ∧ (ready (encode (drive true 36))).dirBit 36 = false ∧ 5 ≤ 5 := by
  decide
theorem test_premises_PeekShowsLines :
    inLoc Params.standard 40 = some ⟨0x0000#16, 15⟩ ∧ 11 < 12 ∧
      0x0002#16 ∉ [Params.standard.addrA, Params.standard.addrB, Params.standard.addrE] ∧
      State.reset.device = .reference := by decide
theorem test_premises_PeekAfterPoke :
    0x0007#16 ∉ [Params.standard.addrA, Params.standard.addrB, Params.standard.addrE] ∧
      0x0000#16 = Params.standard.addrA ∧ 0x0001#16 = Params.standard.addrB ∧ 11 < 12 ∧ 3 < 4 ∧
      0x0002#16 ∉ [0x0000#16, Params.standard.addrB, Params.standard.addrE] := by decide
theorem test_premises_LockExcludesOther : ∃ t, step mixed = .next t ∧ mixed.lock = .consumer := ⟨_, rfl, rfl⟩
/-- `OTHER` ready to write the output register of pin 25 in the block's first window. -/
def racing : State :=
  { at' .rd1 0x0519#16 0 with other := [.poke 0x0002#16 0x0001#16], schedule := [.prm, .other, .prm] }
theorem test_premises_LostUpdate :
    decode racing.cmd = .ok (.setpinHigh 25) ∧ racing.phase = .rd1 ∧
      writeLoc racing.params (.setpinHigh 25) .wr1 = some ⟨0x0002#16, 4⟩ ∧ racing.device = .reference ∧
      racing.lock ≠ .consumer ∧ racing.other = [.poke 0x0002#16 0x0001#16] ∧ racing.schedule = [.prm, .other, .prm] := by
  decide
theorem test_premises_LostUpdate_combined :
    (0x0000#16 = racing.params.addrA → 11 < 12) ∧
      writeLoc racing.params (.setpinHigh 39) .wr1 = some ⟨0x0000#16, 10⟩ := by decide
theorem test_premises_CombinedRegisterGap :
    ∃ s : State, 37 ≤ 40 ∧ 40 ≤ 40 ∧ decode s.cmd = .ok (drive true 40) ∧ s.phase = .wr1 ∧ s.device = .reference ∧
      s.lock ≠ .consumer ∧ s.other = [.poke s.params.addrA 0x0420#16] ∧ s.schedule = [.prm, .other, .prm, .prm] ∧ 11 < 12 :=
  ⟨{ at' .wr1 0x0528#16 0 with other := [.poke 0x0000#16 0x0420#16], schedule := [.prm, .other, .prm, .prm] },
    by decide, by decide, by decide, rfl, rfl, by decide, rfl, rfl, by decide⟩
theorem test_premises_CommandWaits :
    ∃ t, { at' .rd1 0x0005#16 0 with port := some 0x0006#16 }.port = some 0x0006#16 ∧
      step { at' .rd1 0x0005#16 0 with port := some 0x0006#16 } = .next t := ⟨_, rfl, rfl⟩
theorem test_premises_ResponseHeld : ∃ t, (at' .resp 0x0005#16 0).phase = .resp ∧ step (at' .resp 0x0005#16 0) = .next t :=
  ⟨_, rfl, rfl⟩
theorem test_premises_WorldMovesPads :
    ∃ s : State, s.schedule = [.world] ∧ s.world = [⟨40, true⟩] ∧ validPin 40 = true ∧ validPin 5 = true :=
  ⟨{ State.reset with schedule := [.world], world := [⟨40, true⟩] }, rfl, rfl, by decide, by decide⟩
theorem test_premises_OtherWritesBus :
    ∃ s u : State, s.schedule = [.other] ∧ s.other = [.poke 0xFFFF#16 0x0001#16] ∧ s.device = .reference ∧ s.lock ≠ .consumer ∧
      u = { s with lock := .consumer } ∧ u.lock = .consumer :=
  ⟨{ State.reset with schedule := [.other], other := [.poke 0xFFFF#16 0x0001#16] }, _, rfl, rfl, rfl, by decide, rfl, rfl⟩
theorem test_premises_StepRunsDecodedInstruction :
    decode 0x0005#16 = .ok (.getpin 5) ∧ (ready 0x0005#16).phase = .idle ∧ (ready 0x0005#16).port = some 0x0005#16 ∧
      (ready 0x0005#16).schedule = [] ∧ (at' .rd1 0x0005#16 0).phase ∈ [.rd1, .wr1, .rd2, .wr2] ∧
      (at' .rd1 0x0005#16 0).cmd = 0x0005#16 := by decide
theorem test_premises_StepRunsDecodedInstruction_slot :
    ({ at' .rd1 0x0005#16 0 with schedule := [.prm] } : State).schedule = [.prm] := rfl
theorem test_premises_BlockResetAbandons :
    ({ at' .rd2 0x0505#16 0 with schedule := [.reset] } : State).schedule = [.reset] := rfl
theorem test_premises_StepKeepsInv :
    ∃ t, (at' .wr2 0x0528#16 0).inv = true ∧ step (at' .wr2 0x0528#16 0) = .next t := ⟨_, by decide, rfl⟩
theorem test_premises_InvNeverStops : (at' .rd2 0x0428#16 0).inv = true := by decide
theorem test_premises_ReachesResponse :
    ∃ s : State, s.inv = true ∧ s.phase ∈ [.rd1, .wr1, .rd2, .wr2] ∧ .reset ∉ s.schedule ∧ 4 ≤ s.schedule.count .prm :=
  ⟨{ at' .rd1 0x0428#16 0 with schedule := [.prm, .world, .prm, .prm, .consumer, .prm] },
    by decide, by decide, by decide, by decide⟩
theorem test_premises_BlockPresentsAllowed :
    ∃ t, (at' .wr1 0x0428#16 0).traceAllowed = true ∧ step (at' .wr1 0x0428#16 0) = .next t := ⟨_, by decide, rfl⟩
theorem test_premises_NoBlindWrite :
    ∃ s t, s.latchOk = true ∧ s.phase = .wr1 ∧ step s = .next t :=
  ⟨{ at' .wr1 0x0605#16 0x0001#16 with trace := [⟨.prm, .peek 0x0006#16 0x0001#16⟩] }, _, by decide, rfl, rfl⟩
theorem test_premises_DisciplineKeepsLockPremise :
    ∃ s t : State, s.consumerDisciplined = true ∧ s.phase = .wr1 ∧ step s = .next t :=
  ⟨{ at' .wr1 0x0605#16 0 with lock := .consumer, consumer := [.take, .unlock] }, _, by decide, rfl, rfl⟩
theorem test_premises_NothingCarriesOver :
    ∃ t, (ready 0x0529#16).phase = .idle ∧ run 1 (ready 0x0529#16) = .next t ∧ t.phase = .resp := ⟨_, rfl, rfl, by decide⟩

end Sys2Proof.Tests
end

section
/-! A scheduled slot of `OTHER` with a `poke16` next (00_scope.md R5, 20_memory.md R46). -/

namespace Sys2Proof.Machine

variable {s : State} {a : Addr} {v : Word} {ops : List OtherOp}

/-- With a slot on the schedule the step is that agent's slot, in the state with the slot taken off. -/
theorem step_of_schedule_cons {m : Mover} {rest : List Mover} (h : s.schedule = m :: rest) :
    step s = slotStep m { s with schedule := rest } := by
  simp only [step, State.nextSlot, h]

/-- The bank after a write in the reference environment depends on the addresses and the bank alone. -/
theorem State.refPoke_bank_congr {t : State} (hparams : t.params = s.params) (hbank : t.bank = s.bank) :
    (t.refPoke a v).bank = (s.refPoke a v).bank := by
  simp only [State.refPoke, State.bankRead, hparams, hbank]
  split
  · simp only [State.bankWrite_bank, hbank]
  · split
    · exact hbank
    · simp only [State.bankWrite_bank, hbank]

/-- A write by a master in the reference environment changes the bank and the trace, and nothing else. -/
theorem State.busPoke_reference_eq (who : Master) (hdevice : s.device = .reference) :
    s.busPoke who a v =
      { s with bank := (s.refPoke a v).bank, trace := s.trace ++ [⟨who, .poke a v⟩] } := by
  rw [State.busPoke_reference s who a v hdevice, State.refPoke_eq]
  rfl

/-- 20_memory.md R46: a write of `OTHER` waits while `CONSUMER` holds the lock. -/
theorem otherStep_poke_of_excluded (hother : s.other = .poke a v :: ops) (hlock : s.lock = .consumer) :
    otherStep s = s := by
  simp only [otherStep, hother, otherBus, if_pos hlock]

/-- 20_memory.md R45: with no lock of `CONSUMER`'s in its way, a write of `OTHER` goes to the bus. -/
theorem otherStep_poke_of_admitted (hother : s.other = .poke a v :: ops) (hlock : s.lock ≠ .consumer)
    (hdevice : s.device = .reference) :
    otherStep s =
      { s with other := ops, bank := (s.refPoke a v).bank, trace := s.trace ++ [⟨.other, .poke a v⟩] } := by
  simp only [otherStep, hother, otherBus, if_neg hlock, State.busPoke_reference_eq .other hdevice]

end Sys2Proof.Machine

open Sys2Proof Sys2Proof.Machine

/-- Settles O39, by cases on the lock: `otherStep_poke_of_excluded` or `otherStep_poke_of_admitted`, in the state with the
slot taken off the schedule, which the write does not depend on. -/
theorem otherWritesBus : Obligations.OtherWritesBus := by
  intro s a v ops rest hschedule hother hdevice
  rw [step_of_schedule_cons hschedule]
  refine ⟨fun hlock => ?excluded, fun hlock => ?admitted⟩
  case excluded => exact congrArg Host.Outcome.next (otherStep_poke_of_excluded hother hlock)
  case admitted =>
    have hbank : (State.refPoke a v { s with schedule := rest }).bank = (s.refPoke a v).bank :=
      State.refPoke_bank_congr rfl rfl
    rw [← hbank]
    exact congrArg Host.Outcome.next (otherStep_poke_of_admitted hother hlock hdevice)

end

section
/-! The pads and the reference environment, bit by bit (10_state.md R29 to R31). -/

namespace Sys2Proof.Machine

variable (s : State)

theorem lines_getLsbD {n : Nat} (dir out ext : BitVec n) (j : Nat) (hj : j < n) :
    (lines dir out ext).getLsbD j = if dir.getLsbD j then out.getLsbD j else ext.getLsbD j := by
  simp only [lines, BitVec.getLsbD_or, BitVec.getLsbD_and, BitVec.getLsbD_not, hj, decide_true, Bool.true_and]
  cases dir.getLsbD j <;> simp

theorem putBit_getLsbD {n : Nat} (x : BitVec n) (i j : Nat) (level : Bool) (hj : j < n) :
    (putBit x i level).getLsbD j = if j = i then level else x.getLsbD j := by
  have hbit : (1#n <<< i).getLsbD j = decide (j = i) := by
    rw [BitVec.getLsbD_shiftLeft, BitVec.getLsbD_one]
    grind
  cases level
  case false =>
    have hclear : (putBit x i false).getLsbD j = (x.getLsbD j && !decide (j = i)) := by
      simp only [putBit, Bool.false_eq_true, if_false, BitVec.getLsbD_and, BitVec.getLsbD_not, hbit, hj, decide_true,
        Bool.true_and]
    grind
  case true =>
    have hset : (putBit x i true).getLsbD j = (x.getLsbD j || decide (j = i)) := by
      simp only [putBit, if_true, BitVec.getLsbD_or, hbit]
    grind

/-- A pad put to a level: that pin's `EXT` takes it (10_state.md R29). -/
theorem State.extBit_set_self (pin : Nat) (level : Bool) (hpin : validPin pin = true) :
    State.extBit { s with ext := s.ext.set pin level } pin = level := by
  rw [validPin_iff] at hpin
  rcases classify_cases pin with ⟨_, _, hc⟩ | ⟨_, _, hc⟩ | ⟨_, _, hc⟩ | ⟨_, hc⟩
  case inr.inr.inr => omega
  all_goals
    simp only [State.extBit, Pads.set, hc]
    rw [putBit_getLsbD _ _ _ _ (by omega), if_pos rfl]

/-- A pad put to a level leaves every other pin's `EXT`: in the same range it is another bit, in another range another
word. -/
theorem State.extBit_set_of_ne (pin q : Nat) (level : Bool) (h : q ≠ pin) :
    State.extBit { s with ext := s.ext.set pin level } q = s.extBit q := by
  rcases classify_cases q with ⟨_, _, hc⟩ | ⟨_, _, hc⟩ | ⟨_, _, hc⟩ | ⟨_, hc⟩
  case inr.inr.inr => simp only [State.extBit, hc]
  all_goals
    simp only [State.extBit, hc]
    rcases classify_cases pin with ⟨_, _, hp⟩ | ⟨_, _, hp⟩ | ⟨_, _, hp⟩ | ⟨_, hp⟩
    all_goals simp only [Pads.set, hp]
    rw [putBit_getLsbD _ _ _ _ (by omega), if_neg (by omega)]

/-- The combined register reads the lines above its 12 stored bits (10_state.md R30). -/
theorem State.refPeek_addrA : s.refPeek s.params.addrA = s.linesA ++ (s.bankRead s.params.addrA).extractLsb' 0 12 :=
  if_pos rfl

theorem State.refPeek_addrB : s.refPeek s.params.addrB = s.linesB := by
  have hne : s.params.addrB ≠ s.params.addrA := by
    have := s.params.distinct
    grind
  rw [State.refPeek, if_neg hne, if_pos rfl]

theorem State.refPeek_addrE : s.refPeek s.params.addrE = s.linesE := by
  have hdistinct := s.params.distinct
  have hA : s.params.addrE ≠ s.params.addrA := by grind
  have hB : s.params.addrE ≠ s.params.addrB := by grind
  rw [State.refPeek, if_neg hA, if_neg hB, if_pos rfl]

/-- Every address but those of `A`, `B` and `E` reads what is stored (10_state.md R30). -/
theorem State.refPeek_stored {a : Addr} (h : a ∉ [s.params.addrA, s.params.addrB, s.params.addrE]) :
    s.refPeek a = s.bankRead a := by
  simp only [List.mem_cons, List.not_mem_nil, or_false, not_or] at h
  obtain ⟨hA, hB, hE⟩ := h
  rw [State.refPeek, if_neg hA, if_neg hB, if_neg hE]

theorem State.refPeek_addrA_stored {j : Nat} (hj : j < 12) :
    (s.refPeek s.params.addrA).getLsbD j = (s.bankRead s.params.addrA).getLsbD j := by
  rw [State.refPeek_addrA, BitVec.getLsbD_append]
  simp [hj]

theorem State.refPeek_addrA_line {k : Nat} (hk : k < 4) :
    (s.refPeek s.params.addrA).getLsbD (12 + k) =
      if (s.bankRead s.params.addrA).getLsbD (4 + k) then (s.bankRead s.params.addrA).getLsbD (8 + k)
      else s.ext.pins37to40.getLsbD k := by
  have hline : (s.refPeek s.params.addrA).getLsbD (12 + k) = s.linesA.getLsbD k := by
    rw [State.refPeek_addrA, BitVec.getLsbD_append]
    simp
  rw [hline, State.linesA, lines_getLsbD _ _ _ _ hk]
  simp [hk]

/-! `EXT` range by range. -/

theorem State.extBit_range37to40 {pin : Nat} (h : 37 ≤ pin ∧ pin ≤ 40) :
    s.extBit pin = s.ext.pins37to40.getLsbD (pin - 37) := by
  have hc : classify pin = .range37to40 := if_pos h
  simp only [State.extBit, hc]

theorem State.extBit_range21to36 {pin : Nat} (h : 21 ≤ pin ∧ pin ≤ 36) :
    s.extBit pin = s.ext.pins21to36.getLsbD (pin - 21) := by
  have hc : classify pin = .range21to36 := by rw [classify, if_neg (by omega), if_pos h]
  simp only [State.extBit, hc]

theorem State.extBit_range5to20 {pin : Nat} (h : 5 ≤ pin ∧ pin ≤ 20) :
    s.extBit pin = s.ext.pins5to20.getLsbD (pin - 5) := by
  have hc : classify pin = .range5to20 := by rw [classify, if_neg (by omega), if_neg (by omega), if_pos h]
  simp only [State.extBit, hc]

/-- The line of a pin from its stored bits (10_state.md R29). -/
theorem State.line_of_locs {pin : Nat} {o d : BitLoc} (ho : outLoc s.params pin = some o)
    (hd : dirLoc s.params pin = some d) :
    s.line pin = if s.storedBit d then s.storedBit o else s.extBit pin := by
  simp only [State.line, State.dirBit, State.outBit, ho, hd, Option.map_some, Option.getD_some]

theorem validPin_of_inLoc {p : Params} {pin : Nat} {l : BitLoc} (h : inLoc p pin = some l) : validPin pin = true := by
  by_contra hinvalid
  obtain ⟨hnone, -, -⟩ := locs_of_invalid p pin (by simpa using hinvalid)
  simp [hnone] at h

/-- The input bit of a pin reads the pin's line (10_state.md R30). -/
theorem State.refPeek_inLoc {pin : Nat} {l : BitLoc} (hl : inLoc s.params pin = some l) :
    (s.refPeek l.addr).getLsbD l.off = s.line pin := by
  rcases locs_of_valid s.params pin (validPin_of_inLoc hl) with
    ⟨h1, h2, hi, ho, hd⟩ | ⟨h1, h2, hi, ho, hd⟩ | ⟨h1, h2, hi, ho, hd⟩
  all_goals
    obtain rfl := Option.some.inj (hi.symm.trans hl)
    rw [State.line_of_locs s ho hd, State.storedBit, State.storedBit]
  case inl =>
    obtain ⟨k, rfl⟩ := Nat.exists_eq_add_of_le h1
    rw [show 37 + k - 25 = 12 + k by omega, show 37 + k - 33 = 4 + k by omega, show 37 + k - 29 = 8 + k by omega,
      State.refPeek_addrA_line s (by omega), State.extBit_range37to40 s ⟨h1, h2⟩, Nat.add_sub_cancel_left]
  case inr.inl =>
    rw [State.refPeek_addrB, State.linesB, lines_getLsbD _ _ _ _ (show pin - 21 < 16 by omega),
      State.extBit_range21to36 s ⟨h1, h2⟩]
  case inr.inr =>
    rw [State.refPeek_addrE, State.linesE, lines_getLsbD _ _ _ _ (show pin - 5 < 16 by omega),
      State.extBit_range5to20 s ⟨h1, h2⟩]

/-- A read of the reference environment by a master changes the trace alone (10_state.md R30). -/
theorem State.busPeek_reference_eq (who : Master) (a : Addr) (hdevice : s.device = .reference) :
    s.busPeek who a = (s.refPeek a, { s with trace := s.trace ++ [⟨who, .peek a (s.refPeek a)⟩] }) := by
  rw [State.busPeek, State.answer_reference s a hdevice]
  rfl

/-! A read after a write (10_state.md R31). -/

/-- An address that follows no line reads, after a write of it, the word written. -/
theorem State.refPeek_refPoke_stored {a : Addr} (v : Word) (h : a ∉ [s.params.addrA, s.params.addrB, s.params.addrE]) :
    (s.refPoke a v).refPeek a = v := by
  have hstored : (s.refPoke a v).refPeek a = (s.refPoke a v).bankRead a :=
    State.refPeek_stored _ (by rwa [State.refPoke_params])
  simp only [List.mem_cons, List.not_mem_nil, or_false, not_or] at h
  obtain ⟨hA, hB, hE⟩ := h
  rw [hstored, State.bankRead_refPoke, if_pos rfl, if_neg hA, if_neg (by simp [hB, hE])]

/-- The 12 stored bits of the combined register take a write. -/
theorem State.bankRead_refPoke_addrA (v : Word) {j : Nat} (hj : j < 12) :
    ((s.refPoke s.params.addrA v).bankRead s.params.addrA).getLsbD j = v.getLsbD j := by
  rw [State.bankRead_refPoke, if_pos rfl, if_pos rfl, BitVec.getLsbD_append]
  simp [hj]

theorem State.refPoke_readOnly {a : Addr} (v : Word) (h : a = s.params.addrB ∨ a = s.params.addrE) :
    s.refPoke a v = s := by
  have hne : a ≠ s.params.addrA := by
    have := s.params.distinct
    grind
  rw [State.refPoke, if_neg hne, if_pos h]

/-- A write leaves what every other address reads, but for the registers `B` and `E`, which follow the lines. -/
theorem State.refPeek_refPoke_of_ne {a b : Addr} (v : Word) (h : b ∉ [a, s.params.addrB, s.params.addrE]) :
    (s.refPoke a v).refPeek b = s.refPeek b := by
  simp only [List.mem_cons, List.not_mem_nil, or_false, not_or] at h
  obtain ⟨hne, hB, hE⟩ := h
  have hbank : (s.refPoke a v).bankRead b = s.bankRead b := s.bankRead_refPoke_ne a b v hne
  by_cases hA : b = s.params.addrA
  · subst hA
    simp only [State.refPeek, State.linesA, State.refPoke_params, State.refPoke_ext, hbank, if_true]
  · simp only [State.refPeek, State.refPoke_params, if_neg hA, if_neg hB, if_neg hE, hbank]

end Sys2Proof.Machine
end

section

open Sys2Proof Sys2Proof.Machine

/-- Settles O31: the input bits by `State.refPeek_inLoc`, the stored ones by what each address reads. -/
theorem peekShowsLines : Obligations.PeekShowsLines := by
  intro s
  refine ⟨fun pin l hl => ?line, fun j hj => ?combined, fun a ha => ?stored, fun who a hdevice => ?read⟩
  case line => exact s.refPeek_inLoc hl
  case combined => exact s.refPeek_addrA_stored hj
  case stored => exact s.refPeek_stored ha
  case read => exact s.busPeek_reference_eq who a hdevice

/-- Settles O32: the combined register's stored bits take the write, and its lines are read from the bits just written. -/
theorem peekAfterPoke : Obligations.PeekAfterPoke := by
  intro s a v
  refine ⟨fun ha => ?stored, fun ha => ?combined, fun ha => ?readOnly, fun b hb => ?elsewhere⟩
  case stored => exact s.refPeek_refPoke_stored v ha
  case readOnly => exact s.refPoke_readOnly v ha
  case elsewhere => exact s.refPeek_refPoke_of_ne v hb
  case combined =>
    subst ha
    have hparams : (s.refPoke s.params.addrA v).params.addrA = s.params.addrA := by rw [State.refPoke_params]
    refine ⟨fun j hj => ?bit, fun k hk => ?line⟩
    case bit =>
      have hread := (s.refPoke s.params.addrA v).refPeek_addrA_stored hj
      rw [hparams] at hread
      rw [hread, s.bankRead_refPoke_addrA v hj]
    case line =>
      have hread := (s.refPoke s.params.addrA v).refPeek_addrA_line hk
      rw [hparams] at hread
      rw [hread, s.bankRead_refPoke_addrA v (by omega), s.bankRead_refPoke_addrA v (by omega), State.refPoke_ext,
        s.extBit_range37to40 (by omega), Nat.add_sub_cancel_left]

/-- Settles O38: the step is `worldStep` with the slot taken off, and a pad put to a level is read back bit by bit. -/
theorem worldMovesPads : Obligations.WorldMovesPads := by
  intro s o ops rest hschedule hworld hpin
  refine ⟨{ s with schedule := rest, world := ops, ext := s.ext.set o.pin o.level }, ?_, rfl, fun q _ => ?_⟩
  · rw [step_of_schedule_cons hschedule]
    simp only [slotStep, worldStep, hworld]
  · split
    next hq =>
      subst hq
      exact s.extBit_set_self o.pin o.level hpin
    next hq => exact s.extBit_set_of_ne o.pin q o.level hq

end

section
/-! The state after reset (10_state.md R33). -/

open Sys2Proof Sys2Proof.Machine

/-- Settles O41, field by field of `State.reset`. -/
theorem stateAfterReset : Obligations.StateAfterReset := ⟨rfl, rfl, rfl, rfl⟩

/-- Settles O43: an empty bank and an empty trace, an idle block, and nobody with the lock. -/
theorem resetMeetsInvariants : Obligations.ResetMeetsInvariants := by
  refine ⟨?inv, ?trace, ?latch, ?consumer⟩
  case inv => decide
  case trace => rfl
  case latch => rfl
  case consumer => rfl

end

section
/-! What the meaning of an operation does in a phase, said once for all four operations (41_rmw_sequencer.md R76 to R83): the
parameters, the operation and the phase choose an action, and the action alone looks at the rest of the state. -/

namespace Sys2Proof.Machine

/-- A bit of a word put to a level (41_rmw_sequencer.md R80, R82). -/
def forceBit (level : Bool) (w : Word) (off : Nat) : Word := if level then setBit w off else clrBit w off

theorem forceBit_getLsbD (level : Bool) (w : Word) {off : Nat} (j : Nat) (hoff : off < 16) :
    (forceBit level w off).getLsbD j = if j = off then level else w.getLsbD j := by
  cases level <;> simp only [forceBit, Bool.false_eq_true, if_true, if_false, setBit_getLsbD, clrBit_getLsbD] <;> grind

/-- One step of the block for a defined operation. -/
inductive BlockAction where
  /-- The acceptance of a command. -/
  | accept (c : Word) (pin : Nat)
  /-- The read of a read-modify-write. -/
  | read (a : Addr) (next : Phase)
  /-- The one read of a `GETPIN`, and its response. -/
  | readBit (l : BitLoc)
  /-- A write that is not the command's last. -/
  | write (l : BitLoc) (level : Bool) (next : Phase)
  /-- The command's last write, and its response. -/
  | writeLast (l : BitLoc) (level : Bool)
  /-- The response waits to be taken. -/
  | hold

/-- The effect of an action. -/
def BlockAction.apply (s : State) : BlockAction → State
  | .accept c pin => s.accept c pin
  | .read a next => (s.readLatch a).goto next
  | .readBit l => (s.readLatch l.addr).respond (zext16 (getBit (s.answer l.addr).1 l.off)) errNone
  | .write l level next => (s.busPoke .prm l.addr (forceBit level s.latch l.off)).goto next
  | .writeLast l level => (s.busPoke .prm l.addr (forceBit level s.latch l.off)).respond 0x0000#16 errNone
  | .hold => s

/-- The place an action writes to. -/
def BlockAction.writes : BlockAction → Option BitLoc
  | .write l _ _ | .writeLast l _ => some l
  | .accept _ _ | .read _ _ | .readBit _ | .hold => none

/-- The row of an operation in 41_rmw_sequencer.md R76 and R78, with none where no transition exists. -/
def blockAction (p : Params) : Instr → Phase → Option BlockAction
  | i, .idle => some (.accept (encode i) i.pin)
  | _, .resp => some .hold
  | .getpin pin, .rd1 => (inLoc p pin).map .readBit
  | .setpinHiz pin, .rd1 => (dirLoc p pin).map fun d => .read d.addr .wr1
  | .setpinHiz pin, .wr1 => (dirLoc p pin).map fun d => .writeLast d false
  | .setpinLow pin, .rd1 | .setpinHigh pin, .rd1 => (outLoc p pin).map fun o => .read o.addr .wr1
  | .setpinLow pin, .wr1 => (outLoc p pin).map fun o => .write o false .rd2
  | .setpinHigh pin, .wr1 => (outLoc p pin).map fun o => .write o true .rd2
  | .setpinLow pin, .rd2 | .setpinHigh pin, .rd2 => (dirLoc p pin).map fun d => .read d.addr .wr2
  | .setpinLow pin, .wr2 | .setpinHigh pin, .wr2 => (dirLoc p pin).map fun d => .writeLast d true
  | .getpin _, .wr1 | .getpin _, .rd2 | .getpin _, .wr2 | .setpinHiz _, .rd2 | .setpinHiz _, .wr2 => none

/-- The outcome of an action, or of there being none. -/
def BlockAction.outcome (s : State) : Option BlockAction → Host.Outcome State Fault Refusal
  | some m => .next (m.apply s)
  | none => .fault .noTransition

/-- The meaning of an operation is its action. -/
theorem exec_eq_outcome (i : Instr) (s : State) :
    exec i s = BlockAction.outcome s (blockAction s.params i s.phase) := by
  cases i with
  | getpin pin =>
    simp only [exec, execGetpin]
    cases s.phase <;> cases hi : inLoc s.params pin <;> simp only [blockAction, hi, Option.map] <;> rfl
  | setpinHiz pin =>
    simp only [exec, execSetpinHiz]
    cases s.phase <;> cases hd : dirLoc s.params pin <;> simp only [blockAction, hd, Option.map] <;> rfl
  | setpinLow pin =>
    simp only [exec, execSetpinLow]
    cases s.phase <;> cases ho : outLoc s.params pin <;> cases hd : dirLoc s.params pin <;>
      simp only [blockAction, ho, hd, Option.map] <;> rfl
  | setpinHigh pin =>
    simp only [exec, execSetpinHigh]
    cases s.phase <;> cases ho : outLoc s.params pin <;> cases hd : dirLoc s.params pin <;>
      simp only [blockAction, ho, hd, Option.map] <;> rfl

theorem exec_next {i : Instr} {s t : State} (h : exec i s = .next t) :
    ∃ m, blockAction s.params i s.phase = some m ∧ t = m.apply s := by
  rw [exec_eq_outcome] at h
  cases hm : blockAction s.params i s.phase with
  | none => simp [hm, BlockAction.outcome] at h
  | some m =>
    rw [hm] at h
    exact ⟨m, rfl, (Host.Outcome.next.inj h).symm⟩

/-- The phases an action belongs to (41_rmw_sequencer.md R76). -/
def BlockAction.fits (ph : Phase) : BlockAction → Prop
  | .accept _ _ => ph = .idle
  | .read _ next => ph = .rd1 ∧ next = .wr1 ∨ ph = .rd2 ∧ next = .wr2
  | .readBit _ => ph = .rd1
  | .write _ _ next => ph = .wr1 ∧ next = .rd2
  | .writeLast _ _ => ph = .wr1 ∨ ph = .wr2
  | .hold => ph = .resp

theorem blockAction_fits {p : Params} {i : Instr} {ph : Phase} {m : BlockAction} (h : blockAction p i ph = some m) :
    m.fits ph := by
  cases i <;> cases ph <;> simp only [blockAction, Option.map_eq_some_iff, Option.some.injEq, reduceCtorEq] at h
  case getpin.rd1 | setpinHiz.rd1 | setpinHiz.wr1 | setpinLow.rd1 | setpinLow.wr1 | setpinLow.rd2 | setpinLow.wr2 |
      setpinHigh.rd1 | setpinHigh.wr1 | setpinHigh.rd2 | setpinHigh.wr2 =>
    obtain ⟨_, -, rfl⟩ := h
    simp [BlockAction.fits]
  all_goals
    subst h
    rfl

/-- The place an action writes to is the model's `writeLoc`. -/
theorem blockAction_writes {p : Params} {i : Instr} {ph : Phase} {m : BlockAction} (h : blockAction p i ph = some m) :
    m.writes = writeLoc p i ph := by
  cases i <;> cases ph <;> simp only [blockAction, Option.map_eq_some_iff, Option.some.injEq, reduceCtorEq] at h
  case getpin.rd1 | setpinHiz.rd1 | setpinHiz.wr1 | setpinLow.rd1 | setpinLow.wr1 | setpinLow.rd2 | setpinLow.wr2 |
      setpinHigh.rd1 | setpinHigh.wr1 | setpinHigh.rd2 | setpinHigh.wr2 =>
    obtain ⟨_, hl, rfl⟩ := h
    simp [BlockAction.writes, writeLoc, hl]
  all_goals
    subst h
    rfl

/-- An acceptance changes `CMD`, the port, `PHASE` and the response alone (41_rmw_sequencer.md R77). -/
theorem State.accept_eq (s : State) (c : Word) (pin : Nat) :
    s.accept c pin =
      { s with
        cmd := c
        port := none
        phase := (s.accept c pin).phase
        rspData := (s.accept c pin).rspData
        rspErr := (s.accept c pin).rspErr } := by
  cases h : validPin pin with
  | true => rw [State.accept_valid c h]
  | false => rw [State.accept_invalid c h]

namespace BlockAction

variable {m : BlockAction} {s : State}

/-- The parameters, the pads, the lock, the agents' lists and the responses taken are outside every action. -/
theorem apply_frame (m : BlockAction) (s : State) :
    (m.apply s).params = s.params ∧ (m.apply s).ext = s.ext ∧ (m.apply s).lock = s.lock ∧
      (m.apply s).consumer = s.consumer ∧ (m.apply s).other = s.other ∧ (m.apply s).world = s.world ∧
      (m.apply s).schedule = s.schedule ∧ (m.apply s).responses = s.responses := by
  cases m with
  | accept c pin =>
    rw [apply, State.accept_eq]
    simp
  | read a next => simp [apply]
  | readBit l => simp [apply]
  | write l level next => simp [apply]
  | writeLast l level => simp [apply]
  | hold => simp [apply]

/-- `CMD` and the port change at the acceptance alone (41_rmw_sequencer.md R77). -/
theorem apply_cmd_port (hfits : m.fits s.phase) (h : s.phase ≠ .idle) :
    (m.apply s).cmd = s.cmd ∧ (m.apply s).port = s.port := by
  cases m with
  | accept c pin => exact absurd hfits h
  | read a next => simp [apply]
  | readBit l => simp [apply]
  | write l level next => simp [apply]
  | writeLast l level => simp [apply]
  | hold => simp [apply]

/-- `LATCH` and the device change in the reads alone (10_state.md R14). -/
theorem apply_latch_device (hfits : m.fits s.phase) (h1 : s.phase ≠ .rd1) (h2 : s.phase ≠ .rd2) :
    (m.apply s).latch = s.latch ∧ (m.apply s).device = s.device ∧ (m.apply s).freeCount = s.freeCount := by
  cases m with
  | accept c pin =>
    rw [apply, State.accept_eq]
    simp
  | read a next =>
    obtain ⟨hp, -⟩ | ⟨hp, -⟩ := hfits
    · exact absurd hp h1
    · exact absurd hp h2
  | readBit l => exact absurd hfits h1
  | write l level next => simp [apply]
  | writeLast l level => simp [apply]
  | hold => simp [apply]

/-- The response changes where `PHASE` becomes `RESP` alone (10_state.md R14). -/
theorem apply_response (h : (m.apply s).phase ≠ .resp) :
    (m.apply s).rspData = s.rspData ∧ (m.apply s).rspErr = s.rspErr := by
  cases m with
  | accept c pin =>
    cases hpin : validPin pin with
    | true => simp [apply, State.accept_valid c hpin]
    | false => simp [apply, State.accept_invalid c hpin] at h
  | read a next => simp [apply]
  | readBit l => simp [apply] at h
  | write l level next => simp [apply]
  | writeLast l level => simp [apply] at h
  | hold => simp [apply]

/-- At most one transaction a step, the block's own (20_memory.md R40). -/
theorem apply_trace (m : BlockAction) (s : State) :
    (m.apply s).trace = s.trace ∨ ∃ op, (m.apply s).trace = s.trace ++ [⟨.prm, op⟩] := by
  cases m with
  | accept c pin =>
    rw [apply, State.accept_eq]
    simp
  | read a next => simp [apply]
  | readBit l => simp [apply]
  | write l level next => simp [apply]
  | writeLast l level => simp [apply]
  | hold => simp [apply]

theorem apply_bank (h : m.writes = none) : (m.apply s).bank = s.bank := by
  cases m with
  | accept c pin =>
    rw [apply, State.accept_eq]
  | read a next => simp [apply]
  | readBit l => simp [apply]
  | write l level next => cases h
  | writeLast l level => cases h
  | hold => rfl

/-- A write leaves every other address alone (20_memory.md R39). -/
theorem apply_bankRead_of_ne {l : BitLoc} {a : Addr} (h : m.writes = some l) (ha : a ≠ l.addr) :
    (m.apply s).bankRead a = s.bankRead a := by
  cases m with
  | write k level next =>
    obtain rfl := Option.some.inj h
    exact s.bankRead_busPoke_ne .prm k.addr a _ ha
  | writeLast k level =>
    obtain rfl := Option.some.inj h
    exact s.bankRead_busPoke_ne .prm k.addr a _ ha
  | accept c pin => cases h
  | read a next => cases h
  | readBit l => cases h
  | hold => cases h

end BlockAction

end Sys2Proof.Machine
end

section

open Sys2Proof Sys2Proof.Machine

/-- Settles O19: the step is one action, and each part of the frame is the frame of the actions. -/
theorem execFrame : Obligations.ExecFrame := by
  intro i s t hexec
  obtain ⟨m, hm, rfl⟩ := exec_next hexec
  have hfits := blockAction_fits hm
  have hwrites := blockAction_writes hm
  obtain ⟨hparams, hext, hlock, hconsumer, hother, hworld, hschedule, hresponses⟩ := m.apply_frame s
  refine ⟨hparams, hext, hlock, hconsumer, hother, hworld, hschedule, hresponses, m.apply_cmd_port hfits,
    m.apply_latch_device hfits, m.apply_response, m.apply_trace s, fun hnone => ?bank, fun l a hl ha => ?elsewhere⟩
  case bank => exact m.apply_bank (hwrites.trans hnone)
  case elsewhere => exact m.apply_bankRead_of_ne (hwrites.trans hl) ha

end

section
/-! What an idle block's registers hold influences nothing (10_state.md R17): a run keeps two states alike that differ in
registers which the phase does not use. -/

namespace Sys2Proof.Machine

/-- The contents of the block's registers but `PHASE` (10_state.md R14). -/
structure Regs where
  cmd : Word
  latch : Word
  rspData : Word
  rspErr : BitVec 2

/-- The same state with other contents in the block's registers. -/
def State.withRegs (s : State) (r : Regs) : State :=
  { s with cmd := r.cmd, latch := r.latch, rspData := r.rspData, rspErr := r.rspErr }

/-- The registers that the phase uses hold what the state holds in them: `CMD` while a command is in progress, `LATCH` where its
write comes next, the response in `RESP` (41_rmw_sequencer.md R78 to R83). -/
structure State.SameLive (s : State) (r : Regs) : Prop where
  cmd : s.phase ≠ .idle → s.phase ≠ .resp → r.cmd = s.cmd
  latch : s.phase = .wr1 ∨ s.phase = .wr2 → r.latch = s.latch
  response : s.phase = .resp → r.rspData = s.rspData ∧ r.rspErr = s.rspErr

variable {s t : State} {r : Regs}

/-! What does not look at the registers of the block. -/

@[simp] theorem State.withRegs_params : (s.withRegs r).params = s.params := rfl
@[simp] theorem State.withRegs_phase : (s.withRegs r).phase = s.phase := rfl
@[simp] theorem State.withRegs_lock : (s.withRegs r).lock = s.lock := rfl
@[simp] theorem State.withRegs_port : (s.withRegs r).port = s.port := rfl
@[simp] theorem State.withRegs_device : (s.withRegs r).device = s.device := rfl
@[simp] theorem State.withRegs_consumer : (s.withRegs r).consumer = s.consumer := rfl
@[simp] theorem State.withRegs_other : (s.withRegs r).other = s.other := rfl
@[simp] theorem State.withRegs_world : (s.withRegs r).world = s.world := rfl
@[simp] theorem State.withRegs_schedule : (s.withRegs r).schedule = s.schedule := rfl

theorem State.answer_withRegs (a : Addr) :
    (s.withRegs r).answer a = ((s.answer a).1, (s.answer a).2.withRegs r) := by
  simp only [State.answer, State.withRegs_device]
  split <;> rfl

theorem State.busPeek_withRegs (who : Master) (a : Addr) :
    (s.withRegs r).busPeek who a = ((s.busPeek who a).1, (s.busPeek who a).2.withRegs r) := by
  simp only [State.busPeek, State.answer_withRegs]
  rfl

theorem State.busPoke_withRegs (who : Master) (a : Addr) (v : Word) :
    (s.withRegs r).busPoke who a v = (s.busPoke who a v).withRegs r := by
  have hpoke : (s.withRegs r).refPoke a v = (s.refPoke a v).withRegs r := by
    have hbank : ((s.withRegs r).refPoke a v).bank = (s.refPoke a v).bank := State.refPoke_bank_congr rfl rfl
    rw [State.refPoke_eq (s.withRegs r), hbank, State.refPoke_eq s]
    rfl
  simp only [State.busPoke, State.withRegs_device]
  split
  · rw [hpoke]; rfl
  · rfl

/-! The agents. -/

theorem consumerTake_of_resp (rest : List ConsumerOp) (h : s.phase = .resp) :
    consumerTake rest s = { s.takeResponse with consumer := rest } := if_pos h

theorem consumerTake_of_not_resp (rest : List ConsumerOp) (h : s.phase ≠ .resp) : consumerTake rest s = s := if_neg h

theorem consumerStep_withRegs (h : s.SameLive r) : consumerStep (s.withRegs r) = (consumerStep s).withRegs r := by
  have htake (rest : List ConsumerOp) : consumerTake rest (s.withRegs r) = (consumerTake rest s).withRegs r := by
    by_cases hresp : s.phase = .resp
    · obtain ⟨hdata, herr⟩ := h.response hresp
      rw [consumerTake_of_resp rest (s := s.withRegs r) hresp, consumerTake_of_resp rest hresp]
      simp only [State.takeResponse, State.response, State.withRegs, hdata, herr]
    · rw [consumerTake_of_not_resp rest (s := s.withRegs r) hresp, consumerTake_of_not_resp rest hresp]
  simp only [consumerStep, State.withRegs_consumer]
  split
  next => exact htake []
  next rest _ =>
    simp only [consumerLock, State.withRegs_lock]
    split <;> rfl
  next w rest _ =>
    simp only [consumerPresent, State.withRegs_port]
    split <;> rfl
  next rest _ => exact htake rest
  next rest _ => rfl

theorem otherStep_withRegs : otherStep (s.withRegs r) = (otherStep s).withRegs r := by
  simp only [otherStep, State.withRegs_other]
  split
  next => rfl
  next rest _ =>
    simp only [otherLock, State.withRegs_lock]
    split <;> rfl
  next a rest _ =>
    simp only [otherBus, State.withRegs_lock, State.busPeek_withRegs]
    split <;> rfl
  next a v rest _ =>
    simp only [otherBus, State.withRegs_lock, State.busPoke_withRegs]
    split <;> rfl
  next rest _ => rfl

theorem worldStep_withRegs : worldStep (s.withRegs r) = (worldStep s).withRegs r := by
  simp only [worldStep, State.withRegs_world]
  split <;> rfl

/-- A slot that leaves the registers alone, and `PHASE` or takes it to `IDLE`, keeps the agreement. -/
theorem State.SameLive.of_regs_eq (h : s.SameLive r) (hphase : t.phase = s.phase ∨ t.phase = .idle)
    (hcmd : t.cmd = s.cmd) (hlatch : t.latch = s.latch) (hdata : t.rspData = s.rspData) (herr : t.rspErr = s.rspErr) :
    t.SameLive r := by
  obtain hphase | hidle := hphase
  · constructor
    · rw [hphase, hcmd]; exact h.cmd
    · rw [hphase, hlatch]; exact h.latch
    · rw [hphase, hdata, herr]; exact h.response
  · constructor <;> simp [hidle]

theorem consumerStep_sameLive (h : s.SameLive r) : (consumerStep s).SameLive r := by
  rcases consumerStep_cases s with heq | ⟨rest, _, _, heq⟩ | ⟨w, rest, _, _, heq⟩ | ⟨rest, _, _, heq⟩ | ⟨rest, _, heq⟩ <;>
    rw [heq]
  case inr.inr.inr.inl => exact h.of_regs_eq (.inr rfl) rfl rfl rfl rfl
  all_goals exact h.of_regs_eq (.inl rfl) rfl rfl rfl rfl

theorem otherStep_sameLive (h : s.SameLive r) : (otherStep s).SameLive r := by
  rcases otherStep_cases s with heq | ⟨rest, _, _, heq⟩ | ⟨a, rest, _, _, heq⟩ | ⟨a, v, rest, _, _, heq⟩ | ⟨rest, _, heq⟩ <;>
    rw [heq]
  case inl => exact h
  all_goals exact h.of_regs_eq (.inl (by simp)) (by simp) (by simp) (by simp) (by simp)

theorem worldStep_sameLive (h : s.SameLive r) : (worldStep s).SameLive r := by
  rw [worldStep_eq]
  exact h.of_regs_eq (.inl rfl) rfl rfl rfl rfl

/-! The block. -/

/-- The block's slot has the same to do. -/
theorem State.fetch_withRegs (h : s.SameLive r) : (s.withRegs r).fetch = s.fetch := by
  have hcmd : s.phase ≠ .idle → s.phase ≠ .resp → (s.withRegs r).cmd = s.cmd := h.cmd
  simp only [State.fetch, State.withRegs_phase, State.withRegs_port]
  split
  next => rfl
  next => rfl
  all_goals
    next hp => rw [hcmd (by simp [hp]) (by simp [hp])]

/-- An action does the same to two states that are alike, and leaves them alike. -/
theorem BlockAction.apply_withRegs {m : BlockAction} (hfits : m.fits s.phase) (h : s.SameLive r) :
    ∃ r', m.apply (s.withRegs r) = (m.apply s).withRegs r' ∧ (m.apply s).SameLive r' := by
  have hread (a : Addr) : (s.withRegs r).readLatch a = (s.readLatch a).withRegs { r with latch := (s.answer a).1 } := by
    simp only [State.readLatch, State.busPeek_withRegs]
    rfl
  cases m with
  | accept c pin =>
    cases hpin : validPin pin with
    | true =>
      refine ⟨{ r with cmd := c }, ?_, ?_⟩
      · simp only [apply, State.accept_valid c hpin]
        rfl
      · constructor <;> simp [apply, State.accept_valid c hpin]
    | false =>
      refine ⟨⟨c, r.latch, s.params.sentinel, errInvalidPin⟩, ?_, ?_⟩
      · simp only [apply, State.accept_invalid c hpin]
        rfl
      · constructor <;> simp [apply, State.accept_invalid c hpin]
  | read a next =>
    have hcmd : r.cmd = s.cmd := h.cmd (by grind [fits]) (by grind [fits])
    refine ⟨{ r with latch := (s.answer a).1 }, ?_, ?_⟩
    · rw [apply, hread]
      rfl
    · have hnext : next ≠ .resp := by grind [fits]
      constructor <;> simp [apply, hcmd, hnext]
  | readBit l =>
    refine ⟨⟨r.cmd, (s.answer l.addr).1, zext16 (getBit (s.answer l.addr).1 l.off), errNone⟩, ?_, ?_⟩
    · rw [apply, hread, State.answer_withRegs]
      rfl
    · constructor <;> simp [apply]
  | write l level next =>
    obtain ⟨hp, rfl⟩ := hfits
    have hcmd : r.cmd = s.cmd := h.cmd (by simp [hp]) (by simp [hp])
    have hlatch : (s.withRegs r).latch = s.latch := h.latch (.inl hp)
    refine ⟨r, ?_, ?_⟩
    · rw [apply, hlatch, State.busPoke_withRegs]
      rfl
    · constructor <;> simp [apply, hcmd]
  | writeLast l level =>
    have hlatch : (s.withRegs r).latch = s.latch := h.latch hfits
    refine ⟨⟨r.cmd, r.latch, 0x0000#16, errNone⟩, ?_, ?_⟩
    · rw [apply, hlatch, State.busPoke_withRegs]
      rfl
    · constructor <;> simp [apply]
  | hold => exact ⟨r, rfl, h⟩

theorem blockStep_withRegs (h : s.SameLive r) (hstep : blockStep s = .next t) :
    ∃ r', blockStep (s.withRegs r) = .next (t.withRegs r') ∧ t.SameLive r' := by
  have hfetch := State.fetch_withRegs h
  rcases blockStep_next hstep with ⟨hf, rfl⟩ | ⟨i, hf, hexec⟩ | ⟨w, hf, rfl⟩ <;> rw [hf] at hfetch
  case inl => exact ⟨r, by rw [blockStep, hfetch], h⟩
  case inr.inl =>
    obtain ⟨m, hm, rfl⟩ := exec_next hexec
    obtain ⟨r', happly, hlive⟩ := BlockAction.apply_withRegs (blockAction_fits hm) h
    refine ⟨r', ?_, hlive⟩
    simp only [blockStep, hfetch, exec_eq_outcome, State.withRegs_params, State.withRegs_phase, hm, BlockAction.outcome,
      happly]
  case inr.inr =>
    refine ⟨⟨w, r.latch, s.params.sentinel, errReserved⟩, ?_, ?_⟩
    · rw [blockStep, hfetch]
      rfl
    · constructor <;> simp [State.acceptReserved_eq]

/-! A step and a run. -/

theorem slotStep_withRegs (m : Mover) (h : s.SameLive r) (hstep : slotStep m s = .next t) :
    ∃ r', slotStep m (s.withRegs r) = .next (t.withRegs r') ∧ t.SameLive r' := by
  cases m with
  | prm => exact blockStep_withRegs h hstep
  | consumer =>
    obtain rfl := Host.Outcome.next.inj hstep
    exact ⟨r, congrArg Host.Outcome.next (consumerStep_withRegs h), consumerStep_sameLive h⟩
  | other =>
    obtain rfl := Host.Outcome.next.inj hstep
    exact ⟨r, congrArg Host.Outcome.next otherStep_withRegs, otherStep_sameLive h⟩
  | world =>
    obtain rfl := Host.Outcome.next.inj hstep
    exact ⟨r, congrArg Host.Outcome.next worldStep_withRegs, worldStep_sameLive h⟩
  | reset =>
    obtain rfl := Host.Outcome.next.inj hstep
    let u := resetBlock s
    refine ⟨⟨u.cmd, u.latch, u.rspData, u.rspErr⟩, rfl, ?_⟩
    constructor <;> simp [u]

theorem step_withRegs (h : s.SameLive r) (hstep : step s = .next t) :
    ∃ r', step (s.withRegs r) = .next (t.withRegs r') ∧ t.SameLive r' := by
  have hslot : (s.withRegs r).nextSlot = (s.nextSlot.1, s.nextSlot.2.withRegs r) := by
    simp only [State.nextSlot, State.withRegs_schedule]
    split <;> rfl
  have hlive : s.nextSlot.2.SameLive r := by
    rw [State.nextSlot_eq]
    exact h.of_regs_eq (.inl rfl) rfl rfl rfl rfl
  rw [step, hslot]
  exact slotStep_withRegs s.nextSlot.1 hlive hstep

theorem run_succ_of_step {n : Nat} (h : step s = .next t) : run (n + 1) s = run n t := by
  rw [run, h]

theorem run_succ_next {n : Nat} (h : run (n + 1) s = .next t) : ∃ u, step s = .next u ∧ run n u = .next t := by
  rw [run] at h
  split at h
  next u hu => exact ⟨u, hu, h⟩
  next => cases h
  next => cases h

/-- Runs from states that are alike end in states that are alike. -/
theorem run_withRegs (n : Nat) (h : s.SameLive r) (hrun : run n s = .next t) :
    ∃ r', run n (s.withRegs r) = .next (t.withRegs r') ∧ t.SameLive r' := by
  induction n generalizing s r with
  | zero =>
    obtain rfl := Host.Outcome.next.inj hrun
    exact ⟨r, rfl, h⟩
  | succ n ih =>
    obtain ⟨u, hstep, hrest⟩ := run_succ_next hrun
    obtain ⟨q, hstep', hlive⟩ := step_withRegs h hstep
    rw [run_succ_of_step hstep']
    exact ih hlive hrest

theorem State.sameLive_of_idle (h : s.phase = .idle) : s.SameLive r := by
  constructor <;> simp [h]

end Sys2Proof.Machine
end

section

open Sys2Proof Sys2Proof.Machine

/-- Settles O50: `IDLE` uses none of the registers, so `run_withRegs` applies, and in `RESP` the response is in use. -/
theorem nothingCarriesOver : Obligations.NothingCarriesOver := by
  intro n s t c l d e hidle hrun
  obtain ⟨r, hrun', hlive⟩ := run_withRegs (r := ⟨c, l, d, e⟩) n (State.sameLive_of_idle hidle) hrun
  refine ⟨t.withRegs r, hrun', rfl, rfl, fun hresp => ?_⟩
  obtain ⟨hdata, herr⟩ := hlive.response hresp
  simp only [State.response, State.withRegs, hdata, herr]

end

section
/-! A command run by the block alone in the reference environment (10_state.md R29 to R31, 41_rmw_sequencer.md R75). -/

namespace Sys2Proof.Machine

/-- The bits of a command word laid out from its parts (30_encoding.md R50). -/
theorem commandWord_getLsbD (op : BitVec 1) (st : BitVec 2) (pin : BitVec 8) (j : Nat) :
    (0#5 ++ op ++ st ++ pin : Word).getLsbD j =
      if j < 8 then pin.getLsbD j else if j - 8 < 2 then st.getLsbD (j - 8)
      else if j - 8 - 2 < 1 then op.getLsbD (j - 8 - 2) else false := by
  refine (BitVec.getLsbD_append (x := 0#5 ++ op ++ st) (y := pin)).trans ?_
  rw [BitVec.getLsbD_append, BitVec.getLsbD_append, BitVec.getLsbD_zero]

/-- The fields of such a word are its parts. -/
theorem fields_of_commandWord (op : BitVec 1) (st : BitVec 2) (pin : BitVec 8) :
    zeroField (0#5 ++ op ++ st ++ pin) = 0 ∧ opField (0#5 ++ op ++ st ++ pin) = op ∧
      stateField (0#5 ++ op ++ st ++ pin) = st ∧ pinField (0#5 ++ op ++ st ++ pin) = pin.toNat := by
  refine ⟨?zero, ?op, ?state, congrArg BitVec.toNat ?pin⟩
  all_goals
    refine BitVec.eq_of_getLsbD_eq fun j hj => ?_
    simp only [zeroField, opField, stateField, BitVec.getLsbD_extractLsb', hj, decide_true, Bool.true_and,
      commandWord_getLsbD]
    grind

/-- The decoder reads back the operation that was encoded (30_encoding.md R58). -/
theorem decode_encode {i : Instr} (h : i.pin ≤ 255) : decode (encode i) = .ok i := by
  obtain ⟨hzero, hop, hstate, hpin⟩ := fields_of_commandWord i.op i.stateCode (BitVec.ofNat 8 i.pin)
  rw [BitVec.toNat_ofNat, Nat.mod_eq_of_lt (by omega)] at hpin
  rw [decode, encode, hzero, hop, hstate, hpin]
  cases i <;> rfl

/-- A place that the reference environment stores: outside the registers `B` and `E` and the bits `A[15:12]`
(10_state.md R31). -/
structure BitLoc.Stored (l : BitLoc) (p : Params) : Prop where
  off_lt : l.off < 16
  addr_ne_addrB : l.addr ≠ p.addrB
  addr_ne_addrE : l.addr ≠ p.addrE
  off_lt_of_addrA : l.addr = p.addrA → l.off < 12

/-- A valid pin has an output bit and a direction bit, both stored, at two places (10_state.md R26). -/
theorem stored_of_validPin (p : Params) {pin : Nat} (h : validPin pin = true) :
    ∃ o d, outLoc p pin = some o ∧ dirLoc p pin = some d ∧ o.Stored p ∧ d.Stored p ∧ o ≠ d := by
  have hdistinct := p.distinct
  rcases locs_of_valid p pin h with ⟨h1, h2, -, ho, hd⟩ | ⟨h1, h2, -, ho, hd⟩ | ⟨h1, h2, -, ho, hd⟩
  all_goals
    refine ⟨_, _, ho, hd, ⟨?_, ?_, ?_, ?_⟩, ⟨?_, ?_, ?_, ?_⟩, ?_⟩ <;> simp only [ne_eq, BitLoc.mk.injEq] <;> grind

variable {s : State}

/-- Setting or clearing a stored bit by a read-modify-write changes that bit alone (41_rmw_sequencer.md R75). -/
theorem State.storedBit_rmw {l : BitLoc} (level : Bool) (hl : l.Stored s.params) (q : BitLoc) :
    (s.rmw l.addr (forceBit level · l.off)).storedBit q = if q = l then level else s.storedBit q := by
  obtain ⟨hoff, hB, hE, hA⟩ := hl
  by_cases haddr : q.addr = l.addr
  case neg =>
    have hne : q ≠ l := fun h => haddr (congrArg BitLoc.addr h)
    rw [if_neg hne, State.storedBit, State.rmw, State.bankRead_refPoke_ne _ _ _ _ haddr, State.storedBit]
  case pos =>
    have hq : q = l ↔ q.off = l.off := by
      cases q; cases l; simp_all
    simp only [State.storedBit, State.rmw, haddr, State.bankRead_refPoke, if_true, hq]
    by_cases ha : l.addr = s.params.addrA
    case neg =>
      have hread : s.refPeek l.addr = s.bankRead l.addr := s.refPeek_stored (by simp [ha, hB, hE])
      rw [if_neg ha, if_neg (by simp [hB, hE]), forceBit_getLsbD _ _ _ hoff, hread]
    case pos =>
      rw [if_pos ha, BitVec.getLsbD_append]
      by_cases hj : q.off < 12
      · simp [hj, forceBit_getLsbD _ _ _ hoff, ha, s.refPeek_addrA_stored hj]
      · have hkept : q.off ≠ l.off := fun h => hj (h ▸ hA ha)
        rw [if_neg hj, if_neg hkept, BitVec.getLsbD_extractLsb', Nat.add_sub_cancel' (Nat.le_of_not_lt hj), ha]
        by_cases hj' : q.off < 16
        · simp [show q.off - 12 < 4 by omega]
        · simp [BitVec.getLsbD_of_ge _ _ (Nat.le_of_not_lt hj')]

/-! The slots of the block and of `CONSUMER`, nobody else's coming between (log entry 8). -/

variable {i : Instr} {m : BlockAction}

theorem State.fetch_of_idle (hphase : s.phase = .idle) (hport : s.port = some (encode i)) (hpin : i.pin ≤ 255) :
    s.fetch = .command i := by
  simp only [State.fetch, hphase, hport, decode_encode hpin]

theorem State.fetch_of_busy (hidle : s.phase ≠ .idle) (hresp : s.phase ≠ .resp) (hcmd : s.cmd = encode i)
    (hpin : i.pin ≤ 255) : s.fetch = .command i := by
  simp only [State.fetch, hcmd, decode_encode hpin]
  split
  next h => exact absurd h hidle
  next h => exact absurd h hresp
  all_goals rfl

/-- With nothing scheduled, a block that works on a command moves next (log entry 8). -/
theorem State.defaultMover_of_command (hfetch : s.fetch = .command i) : s.defaultMover = .prm := by
  cases hp : s.phase
  case idle =>
    cases hport : s.port with
    | none => simp only [State.fetch, hp, hport, reduceCtorEq] at hfetch
    | some w => simp only [State.defaultMover, hp, hport, Option.isSome_some, if_true]
  case resp => simp only [State.fetch, hp, reduceCtorEq] at hfetch
  all_goals simp only [State.defaultMover, hp]

/-- With no slots scheduled, a block with a step to do takes it. -/
theorem step_eq_exec (hschedule : s.schedule = []) (hfetch : s.fetch = .command i) : step s = exec i s := by
  simp only [step, State.nextSlot, hschedule, State.defaultMover_of_command hfetch, slotStep, blockStep, hfetch]

/-- The acceptance of a presented command on a valid pin (41_rmw_sequencer.md R77). -/
theorem run_accept (n : Nat) (hschedule : s.schedule = []) (hphase : s.phase = .idle) (hport : s.port = some (encode i))
    (hpin : i.pin ≤ 255) (hvalid : validPin i.pin = true) :
    run (n + 1) s = run n ((s.loadCommand (encode i)).goto .rd1) := by
  refine run_succ_of_step ?_
  rw [step_eq_exec hschedule (State.fetch_of_idle hphase hport hpin), exec_eq_outcome, hphase]
  exact congrArg Host.Outcome.next (if_pos hvalid)

/-- A step of the command in `CMD`. -/
theorem run_action (n : Nat) (hschedule : s.schedule = []) (hcmd : s.cmd = encode i) (hpin : i.pin ≤ 255)
    (hidle : s.phase ≠ .idle) (hresp : s.phase ≠ .resp) (hm : blockAction s.params i s.phase = some m) :
    run (n + 1) s = run n (m.apply s) := by
  refine run_succ_of_step ?_
  rw [step_eq_exec hschedule (State.fetch_of_busy hidle hresp hcmd hpin), exec_eq_outcome, hm]
  rfl

/-- The state after a read-modify-write in the reference environment, with the phase that follows it. -/
def State.afterRmw (s : State) (l : BitLoc) (level : Bool) (next : Phase) : State :=
  { s with
    phase := next
    latch := s.refPeek l.addr
    bank := (s.rmw l.addr (forceBit level · l.off)).bank
    trace := s.trace ++
      [⟨.prm, .peek l.addr (s.refPeek l.addr)⟩, ⟨.prm, .poke l.addr (forceBit level (s.refPeek l.addr) l.off)⟩] }

theorem State.storedBit_afterRmw {l : BitLoc} (level : Bool) (next : Phase) (hl : l.Stored s.params) (q : BitLoc) :
    (s.afterRmw l level next).storedBit q = if q = l then level else s.storedBit q :=
  State.storedBit_rmw level hl q

theorem State.storedBit_respond (w : Word) (e : BitVec 2) (q : BitLoc) :
    (s.respond w e).storedBit q = s.storedBit q := rfl

/-- The write after the read, in the reference environment with nothing between them. -/
theorem State.busPoke_after_read (l : BitLoc) (level : Bool) (ph : Phase) (hdevice : s.device = .reference) :
    ((s.readLatch l.addr).goto ph).busPoke .prm l.addr
        (forceBit level ((s.readLatch l.addr).goto ph).latch l.off) = s.afterRmw l level ph := by
  obtain ⟨u, hu⟩ : ∃ u : State, u =
      { s with
        phase := ph
        latch := s.refPeek l.addr
        trace := s.trace ++ [⟨.prm, .peek l.addr (s.refPeek l.addr)⟩] } := ⟨_, rfl⟩
  have hread : (s.readLatch l.addr).goto ph = u := by
    rw [State.readLatch, State.busPeek_reference_eq s .prm l.addr hdevice, hu]
    rfl
  have hparams : u.params = s.params := by rw [hu]
  have hbank : u.bank = s.bank := by rw [hu]
  rw [hread, State.busPoke_reference_eq .prm (by rw [hu]; exact hdevice), State.refPoke_bank_congr hparams hbank, hu]
  simp only [State.afterRmw, State.rmw, List.append_assoc, List.cons_append, List.nil_append]

section ReadModifyWrite

variable {l : BitLoc} {level : Bool} {ph : Phase}

/-- The two steps of a read-modify-write, up to the write's own end. -/
theorem run_read_then (n : Nat) (hschedule : s.schedule = []) (hcmd : s.cmd = encode i) (hpin : i.pin ≤ 255)
    (hread : blockAction s.params i s.phase = some (.read l.addr ph)) (hm : blockAction s.params i ph = some m) :
    run (n + 2) s = run n (m.apply ((s.readLatch l.addr).goto ph)) := by
  have hfits : s.phase = .rd1 ∧ ph = .wr1 ∨ s.phase = .rd2 ∧ ph = .wr2 := blockAction_fits hread
  rw [run_action (n + 1) hschedule hcmd hpin (by grind) (by grind) hread, BlockAction.apply]
  exact run_action n (by simpa) (by simpa) hpin (by grind [State.goto_phase]) (by grind [State.goto_phase]) (by simpa)

theorem run_write (n : Nat) {next : Phase} (hschedule : s.schedule = []) (hcmd : s.cmd = encode i) (hpin : i.pin ≤ 255)
    (hdevice : s.device = .reference) (hread : blockAction s.params i s.phase = some (.read l.addr ph))
    (hwrite : blockAction s.params i ph = some (.write l level next)) :
    run (n + 2) s = run n (s.afterRmw l level next) := by
  rw [run_read_then n hschedule hcmd hpin hread hwrite, BlockAction.apply, State.busPoke_after_read l level ph hdevice]
  rfl

theorem run_writeLast (n : Nat) (hschedule : s.schedule = []) (hcmd : s.cmd = encode i) (hpin : i.pin ≤ 255)
    (hdevice : s.device = .reference) (hread : blockAction s.params i s.phase = some (.read l.addr ph))
    (hwrite : blockAction s.params i ph = some (.writeLast l level)) :
    run (n + 2) s = run n ((s.afterRmw l level ph).respond 0x0000#16 errNone) := by
  rw [run_read_then n hschedule hcmd hpin hread hwrite, BlockAction.apply, State.busPoke_after_read l level ph hdevice]

end ReadModifyWrite

/-! Whole commands. -/

@[simp] theorem drive_pin (level : Bool) (pin : Nat) : (drive level pin).pin = pin := by
  cases level <;> rfl

/-- The rows of the two operations that drive a pin, `SETPIN.LOW` and `SETPIN.HIGH` (41_rmw_sequencer.md R78). -/
theorem blockAction_drive (level : Bool) {p : Params} {pin : Nat} {o d : BitLoc} (ho : outLoc p pin = some o)
    (hd : dirLoc p pin = some d) :
    blockAction p (drive level pin) .rd1 = some (.read o.addr .wr1) ∧
      blockAction p (drive level pin) .wr1 = some (.write o level .rd2) ∧
      blockAction p (drive level pin) .rd2 = some (.read d.addr .wr2) ∧
      blockAction p (drive level pin) .wr2 = some (.writeLast d true) := by
  cases level <;> simp [drive, blockAction, ho, hd]

/-- The state in which a driving command leaves the reference environment when it runs alone. -/
def State.afterDrive (s : State) (level : Bool) (pin : Nat) (o d : BitLoc) : State :=
  ((((s.loadCommand (encode (drive level pin))).goto .rd1).afterRmw o level .rd2).afterRmw d true .wr2).respond
    0x0000#16 errNone

/-- Its two read-modify-writes put the output bit to the level and the direction bit to 1, and no other stored bit
(42_setpin.md R90 to R92). -/
theorem State.storedBit_afterDrive (level : Bool) (pin : Nat) {o d : BitLoc} (ho : o.Stored s.params)
    (hd : d.Stored s.params) (q : BitLoc) :
    (s.afterDrive level pin o d).storedBit q = if q = d then true else if q = o then level else s.storedBit q := by
  let accepted : State := (s.loadCommand (encode (drive level pin))).goto .rd1
  have hout : (accepted.afterRmw o level .rd2).storedBit q = if q = o then level else accepted.storedBit q :=
    State.storedBit_afterRmw (s := accepted) level .rd2 ho q
  have hdir : ((accepted.afterRmw o level .rd2).afterRmw d true .wr2).storedBit q =
      if q = d then true else (accepted.afterRmw o level .rd2).storedBit q :=
    State.storedBit_afterRmw (s := accepted.afterRmw o level .rd2) true .wr2 hd q
  rw [State.afterDrive, State.storedBit_respond, hdir, hout]
  rfl

/-- A driving command, run alone in the reference environment (41_rmw_sequencer.md R88). -/
theorem run_drive (n : Nat) {level : Bool} {pin : Nat} {o d : BitLoc} (hpin : pin ≤ 255) (hvalid : validPin pin = true)
    (hschedule : s.schedule = []) (hphase : s.phase = .idle) (hport : s.port = some (encode (drive level pin)))
    (hdevice : s.device = .reference) (ho : outLoc s.params pin = some o) (hd : dirLoc s.params pin = some d) :
    run (n + 5) s = run n (s.afterDrive level pin o d) := by
  obtain ⟨hrd1, hwr1, hrd2, hwr2⟩ := blockAction_drive level ho hd
  have hpin' : (drive level pin).pin ≤ 255 := by rwa [drive_pin]
  have hvalid' : validPin (drive level pin).pin = true := by rwa [drive_pin]
  let accepted : State := (s.loadCommand (encode (drive level pin))).goto .rd1
  calc run (n + 5) s = run (n + 4) accepted := run_accept (n + 4) hschedule hphase hport hpin' hvalid'
    _ = run (n + 2) (accepted.afterRmw o level .rd2) := run_write (n + 2) hschedule rfl hpin' hdevice hrd1 hwr1
    _ = run n (s.afterDrive level pin o d) := run_writeLast n hschedule rfl hpin' hdevice hrd2 hwr2

theorem zext16_getBit (w : Word) (j : Nat) : zext16 (getBit w j) = if w.getLsbD j then 0x0001#16 else 0x0000#16 := by
  rw [getBit_eq]
  cases w.getLsbD j <;> rfl

/-- A `GETPIN` run alone in the reference environment responds with the level of the pin's line (43_getpin.md R94). -/
theorem run_getpin {pin : Nat} (hpin : pin ≤ 255) (hvalid : validPin pin = true) (hschedule : s.schedule = [])
    (hphase : s.phase = .idle) (hport : s.port = some (encode (.getpin pin))) (hdevice : s.device = .reference) :
    ∃ t, run 2 s = .next t ∧ t.phase = .resp ∧ t.responses = s.responses ∧
      t.response = ⟨if s.line pin then 0x0001#16 else 0x0000#16, errNone⟩ := by
  obtain ⟨l, hl⟩ : ∃ l, inLoc s.params pin = some l := by
    rcases locs_of_valid s.params pin hvalid with ⟨_, _, hi, _⟩ | ⟨_, _, hi, _⟩ | ⟨_, _, hi, _⟩ <;> exact ⟨_, hi⟩
  let s1 : State := (s.loadCommand (encode (.getpin pin))).goto .rd1
  have hread : blockAction s1.params (.getpin pin) s1.phase = some (.readBit l) := by
    simp [s1, blockAction, hl]
  refine ⟨(BlockAction.readBit l).apply s1, ?_, rfl, by simp [BlockAction.apply, s1], ?_⟩
  · calc run 2 s = run 1 s1 := run_accept 1 hschedule hphase hport hpin hvalid
      _ = run 0 _ := run_action 0 hschedule rfl hpin (by simp [s1]) (by simp [s1]) hread
  · have hline : (s1.refPeek l.addr).getLsbD l.off = s.line pin := s1.refPeek_inLoc hl
    simp only [BlockAction.apply, State.response, State.respond_rspData, State.respond_rspErr,
      State.answer_reference s1 l.addr hdevice, zext16_getBit, hline]

/-- `CONSUMER` takes a response that waits (41_rmw_sequencer.md R83). -/
theorem run_take (n : Nat) {rest : List ConsumerOp} (hschedule : s.schedule = []) (hphase : s.phase = .resp)
    (hconsumer : s.consumer = .take :: rest) : run (n + 1) s = run n { s.takeResponse with consumer := rest } := by
  refine run_succ_of_step ?_
  simp only [step, State.nextSlot, hschedule, State.defaultMover, hphase, slotStep, consumerStep, hconsumer,
    consumerTake_of_resp rest hphase]

/-- `CONSUMER` presents a command to an idle block (41_rmw_sequencer.md R77). -/
theorem run_present (n : Nat) {w : Word} {rest : List ConsumerOp} (hschedule : s.schedule = []) (hphase : s.phase = .idle)
    (hport : s.port = none) (hconsumer : s.consumer = .present w :: rest) :
    run (n + 1) s = run n { s with port := some w, consumer := rest } := by
  refine run_succ_of_step ?_
  simp [step, State.nextSlot, hschedule, State.defaultMover, hphase, hport, slotStep, consumerStep, hconsumer,
    consumerPresent]

end Sys2Proof.Machine
end

section

open Sys2Proof Sys2Proof.Machine

/-- Settles O29: `run_drive` leaves the output bit at the level and the direction bit 1, so the line is at the level whatever
the outside drives, and the line is what `run_getpin` answers. -/
theorem roundTrip : Obligations.RoundTrip := by
  intro level pin s rest hpin hvalid hschedule hphase hport hdevice hconsumer
  obtain ⟨o, d, ho, hd, hostored, hdstored, hne⟩ := stored_of_validPin s.params hvalid
  let t : State := s.afterDrive level pin o d
  let u : State := { t.takeResponse with consumer := .present (encode (.getpin pin)) :: rest }
  let v : State := { u with port := some (encode (.getpin pin)), consumer := rest }
  have hrest : run 9 s = run 2 v := by
    calc run 9 s = run 4 t := run_drive 4 hpin hvalid hschedule hphase hport hdevice ho hd
      _ = run 3 u := run_take 3 hschedule rfl hconsumer
      _ = run 2 v := run_present 2 hschedule rfl rfl rfl
  have hline : v.line pin = level := by
    have hstored := State.storedBit_afterDrive level pin hostored hdstored
    have hdir : v.storedBit d = true := (hstored d).trans (if_pos rfl)
    have hout : v.storedBit o = level := (hstored o).trans (by rw [if_neg hne, if_pos rfl])
    rw [State.line_of_locs v ho hd, hdir, if_pos rfl, hout]
  obtain ⟨x, hrun, hresp, hresponses, hresponse⟩ := run_getpin (s := v) hpin hvalid hschedule rfl rfl hdevice
  refine ⟨x, hrest.trans hrun, hresp, hresponses, ?_⟩
  rw [hresponse, hline]
  rfl

end

section
/-! A `CONSUMER` that does each command as `lock()`, present, take, `unlock()` (60_exceptions.md R107): its place in the command,
and what every slot does to that place. -/

namespace Sys2Proof.Machine

variable {s t : State} {ops : List ConsumerOp}

/-- The place of `CONSUMER` in a command done as 60_exceptions.md R107 requires, with what phase, port and lock show there. -/
inductive State.CommandPlace (s : State) : Prop where
  /-- Between commands, the lock not its own. -/
  | between (hlock : s.lock ≠ .consumer) (htodo : disciplined s.consumer = true) (hidle : s.phase = .idle)
      (hport : s.port = none)
  /-- The lock held, the command not yet presented. -/
  | toPresent {w : Word} {rest : List ConsumerOp} (hlock : s.lock = .consumer)
      (htodo : s.consumer = .present w :: .take :: .unlock :: rest) (hrest : disciplined rest = true)
      (hidle : s.phase = .idle) (hport : s.port = none)
  /-- The command presented, its response not yet taken: it is on the port or in the block, not both. A reset may have
  abandoned it. -/
  | toTake {rest : List ConsumerOp} (hlock : s.lock = .consumer) (htodo : s.consumer = .take :: .unlock :: rest)
      (hrest : disciplined rest = true) (hone : s.phase = .idle ∨ s.port = none)
  /-- The response taken, the lock not yet given back. -/
  | toUnlock {rest : List ConsumerOp} (hlock : s.lock = .consumer) (htodo : s.consumer = .unlock :: rest)
      (hrest : disciplined rest = true) (hidle : s.phase = .idle) (hport : s.port = none)

theorem State.busy_eq_false_iff : s.busy = false ↔ s.phase = .idle := by
  simp [State.busy]

/-- A list of whole commands is empty or begins with one. -/
theorem disciplined_cases (h : disciplined ops = true) :
    ops = [] ∨ ∃ w rest, ops = .lock :: .present w :: .take :: .unlock :: rest ∧ disciplined rest = true := by
  unfold disciplined at h
  split at h
  next => exact .inl rfl
  next w rest => exact .inr ⟨w, rest, rfl, h⟩
  next => cases h

/-- What is left of a command with the lock held begins at the presenting, the taking or the unlocking. -/
theorem lockedRest_cases (h : lockedRest ops = true) :
    ∃ rest, disciplined rest = true ∧
      ((∃ w, ops = .present w :: .take :: .unlock :: rest) ∨ ops = .take :: .unlock :: rest ∨ ops = .unlock :: rest) := by
  unfold lockedRest at h
  split at h
  next w rest => exact ⟨rest, h, .inl ⟨w, rfl⟩⟩
  next rest => exact ⟨rest, h, .inr (.inl rfl)⟩
  next rest => exact ⟨rest, h, .inr (.inr rfl)⟩
  next => cases h

/-- The model's predicate says that `CONSUMER` is at one of the four places. -/
theorem State.consumerDisciplined_iff : s.consumerDisciplined = true ↔ s.CommandPlace := by
  constructor
  case mp =>
    intro h
    by_cases hlock : s.lock = .consumer
    case neg =>
      simp only [State.consumerDisciplined, if_neg hlock, Bool.and_eq_true, Bool.not_eq_true', State.busy_eq_false_iff,
        Option.isNone_iff_eq_none] at h
      obtain ⟨⟨htodo, hidle⟩, hport⟩ := h
      exact .between hlock htodo hidle hport
    case pos =>
      rw [State.consumerDisciplined, if_pos hlock, Bool.and_eq_true] at h
      obtain ⟨hlocked, hplace⟩ := h
      obtain ⟨rest, hrest, ⟨w, htodo⟩ | htodo | htodo⟩ := lockedRest_cases hlocked
      all_goals
        simp only [htodo, Bool.and_eq_true, Bool.or_eq_true, Bool.not_eq_true', State.busy_eq_false_iff,
          Option.isNone_iff_eq_none] at hplace
      · exact .toPresent hlock htodo hrest hplace.1 hplace.2
      · exact .toTake hlock htodo hrest hplace
      · exact .toUnlock hlock htodo hrest hplace.1 hplace.2
  case mpr =>
    intro h
    cases h with
    | between hlock htodo hidle hport => simp [State.consumerDisciplined, State.busy, hlock, htodo, hidle, hport]
    | toPresent hlock htodo hrest hidle hport =>
      simp [State.consumerDisciplined, State.busy, lockedRest, hlock, htodo, hrest, hidle, hport]
    | toTake hlock htodo hrest hone =>
      simpa [State.consumerDisciplined, State.busy, lockedRest, hlock, htodo, hrest] using hone
    | toUnlock hlock htodo hrest hidle hport =>
      simp [State.consumerDisciplined, State.busy, lockedRest, hlock, htodo, hrest, hidle, hport]

/-- The block is idle wherever `CONSUMER` has not the lock, so the lock premise holds (20_memory.md R46). -/
theorem State.CommandPlace.lockPremise (h : s.CommandPlace) : s.lockPremise = true := by
  cases h <;> simp [State.lockPremise, State.busy, *]

/-- From `s` to `t` nothing has been done that moves `CONSUMER` in its command: its list and its hold of the lock stay, no
command has come to a block without one, and none to a block or port beside the one there is. -/
structure State.KeepsPlace (s t : State) : Prop where
  consumer : t.consumer = s.consumer
  lock : t.lock = .consumer ↔ s.lock = .consumer
  quiet : s.phase = .idle → s.port = none → t.phase = .idle ∧ t.port = none
  single : s.phase = .idle ∨ s.port = none → t.phase = .idle ∨ t.port = none

theorem State.KeepsPlace.of_eq (hconsumer : t.consumer = s.consumer) (hlock : t.lock = .consumer ↔ s.lock = .consumer)
    (hphase : t.phase = s.phase) (hport : t.port = s.port) : s.KeepsPlace t where
  consumer := hconsumer
  lock := hlock
  quiet hidle hnone := ⟨hphase.trans hidle, hport.trans hnone⟩
  single h := by rwa [hphase, hport]

theorem State.KeepsPlace.commandPlace (h : s.KeepsPlace t) (hs : s.CommandPlace) : t.CommandPlace := by
  cases hs with
  | between hlock htodo hidle hport =>
    obtain ⟨hidle, hport⟩ := h.quiet hidle hport
    exact .between (mt h.lock.1 hlock) (h.consumer ▸ htodo) hidle hport
  | toPresent hlock htodo hrest hidle hport =>
    obtain ⟨hidle, hport⟩ := h.quiet hidle hport
    exact .toPresent (h.lock.2 hlock) (h.consumer.trans htodo) hrest hidle hport
  | toTake hlock htodo hrest hone => exact .toTake (h.lock.2 hlock) (h.consumer.trans htodo) hrest (h.single hone)
  | toUnlock hlock htodo hrest hidle hport =>
    obtain ⟨hidle, hport⟩ := h.quiet hidle hport
    exact .toUnlock (h.lock.2 hlock) (h.consumer.trans htodo) hrest hidle hport

/-! The slots of the others. -/

/-- An idle block to which nothing is presented waits (41_rmw_sequencer.md R77). -/
theorem State.fetch_of_quiet (hidle : s.phase = .idle) (hport : s.port = none) : s.fetch = .wait := by
  simp only [State.fetch, hidle, hport]

/-- A meaning run in `IDLE` is an acceptance, which frees the port. -/
theorem BlockAction.apply_port_of_idle {m : BlockAction} (hfits : m.fits s.phase) (hidle : s.phase = .idle) :
    (m.apply s).port = none := by
  cases m with
  | accept c pin => rw [apply, State.accept_eq]
  | _ => simp [fits, hidle] at hfits

theorem blockStep_keepsPlace (h : blockStep s = .next t) : s.KeepsPlace t := by
  rcases blockStep_next h with ⟨-, rfl⟩ | ⟨i, hfetch, hexec⟩ | ⟨w, hfetch, rfl⟩
  case inl => exact .of_eq rfl .rfl rfl rfl
  case inr.inl =>
    obtain ⟨m, hm, rfl⟩ := exec_next hexec
    have hfits := blockAction_fits hm
    obtain ⟨-, -, hlock, hconsumer, -⟩ := m.apply_frame s
    refine ⟨hconsumer, by rw [hlock], fun hidle hport => ?quiet, fun hone => .inr ?single⟩
    case quiet =>
      rw [State.fetch_of_quiet hidle hport] at hfetch
      cases hfetch
    case single =>
      by_cases hidle : s.phase = .idle
      · exact BlockAction.apply_port_of_idle hfits hidle
      · obtain ⟨-, hport⟩ := BlockAction.apply_cmd_port hfits hidle
        exact hport.trans (hone.resolve_left hidle)
  case inr.inr =>
    refine ⟨rfl, .rfl, fun hidle hport => ?quiet, fun _ => .inr rfl⟩
    case quiet =>
      rw [State.fetch_of_quiet hidle hport] at hfetch
      cases hfetch

/-- `OTHER` takes no lock but a free one and gives back no lock but its own (log entry 11). -/
theorem otherStep_keepsPlace (s : State) : s.KeepsPlace (otherStep s) := by
  rcases otherStep_cases s with
    heq | ⟨rest, -, hfree, heq⟩ | ⟨a, rest, -, -, heq⟩ | ⟨a, v, rest, -, -, heq⟩ | ⟨rest, -, heq⟩ <;>
    rw [heq]
  case inl => exact .of_eq rfl .rfl rfl rfl
  case inr.inl => exact .of_eq rfl (by simp [hfree]) rfl rfl
  case inr.inr.inl => exact .of_eq (by simp) (by simp) (by simp) (by simp)
  case inr.inr.inr.inl => exact .of_eq (by simp) (by simp) (by simp) (by simp)
  case inr.inr.inr.inr =>
    refine .of_eq rfl ?_ rfl rfl
    by_cases hother : s.lock = .other <;> simp [hother]

theorem worldStep_keepsPlace (s : State) : s.KeepsPlace (worldStep s) := by
  rw [worldStep_eq]
  exact .of_eq rfl .rfl rfl rfl

/-- A reset leaves the lock and the port (log entry 12), and the block without a command. -/
theorem resetBlock_keepsPlace (s : State) : s.KeepsPlace (resetBlock s) :=
  ⟨rfl, .rfl, fun _ hport => ⟨rfl, hport⟩, fun _ => .inl rfl⟩

/-! The slot of `CONSUMER`. -/

/-- A slot of `CONSUMER` takes it from one place of its command to the next, or leaves it waiting. -/
theorem consumerStep_commandPlace (hs : s.CommandPlace) : (consumerStep s).CommandPlace := by
  rcases consumerStep_cases s with heq | ⟨rest, hop, hfree, heq⟩ | ⟨w, rest, hop, hport, heq⟩ | ⟨rest, hop, hresp, heq⟩ |
    ⟨rest, hop, heq⟩ <;>
    rw [heq]
  case inl => exact hs
  case inr.inl =>
    cases hs with
    | between hlock htodo hidle hport =>
      obtain hnil | ⟨w, rest', hcons, hrest⟩ := disciplined_cases htodo
      · simp [hnil] at hop
      · obtain ⟨-, rfl⟩ := List.cons.inj (hop.symm.trans hcons)
        exact .toPresent rfl rfl hrest hidle hport
    | toPresent hlock | toTake hlock | toUnlock hlock => simp [hlock] at hfree
  case inr.inr.inl =>
    cases hs with
    | toPresent hlock htodo hrest hidle hport =>
      obtain ⟨-, rfl⟩ := List.cons.inj (hop.symm.trans htodo)
      exact .toTake hlock rfl hrest (.inl hidle)
    | between hlock htodo => simp [hop, disciplined] at htodo
    | toTake hlock htodo | toUnlock hlock htodo => simp [hop] at htodo
  case inr.inr.inr.inl =>
    cases hs with
    | toTake hlock htodo hrest hone =>
      obtain hop | ⟨hnil, -⟩ := hop
      · obtain ⟨-, rfl⟩ := List.cons.inj (hop.symm.trans htodo)
        exact .toUnlock hlock rfl hrest rfl (hone.resolve_left (by simp [hresp]))
      · simp [hnil] at htodo
    | between hlock htodo hidle | toPresent hlock htodo hrest hidle | toUnlock hlock htodo hrest hidle =>
      simp [hidle] at hresp
  case inr.inr.inr.inr =>
    cases hs with
    | toUnlock hlock htodo hrest hidle hport =>
      obtain ⟨-, rfl⟩ := List.cons.inj (hop.symm.trans htodo)
      exact .between (by simp [hlock]) hrest hidle hport
    | between hlock htodo => simp [hop, disciplined] at htodo
    | toPresent hlock htodo | toTake hlock htodo => simp [hop] at htodo

/-- Every step leaves `CONSUMER` at a place of its command. -/
theorem step_commandPlace (hs : s.CommandPlace) (h : step s = .next t) : t.CommandPlace := by
  obtain ⟨u, hu, hslot⟩ := step_next h
  have hplace : u.CommandPlace := by
    have hkeeps : s.KeepsPlace u := by
      rw [hu]
      exact .of_eq rfl .rfl rfl rfl
    exact hkeeps.commandPlace hs
  rcases hslot with hblock | rfl | rfl | rfl | rfl
  · exact (blockStep_keepsPlace hblock).commandPlace hplace
  · exact consumerStep_commandPlace hplace
  · exact (otherStep_keepsPlace u).commandPlace hplace
  · exact (worldStep_keepsPlace u).commandPlace hplace
  · exact (resetBlock_keepsPlace u).commandPlace hplace

end Sys2Proof.Machine
end

section

open Sys2Proof Sys2Proof.Machine

/-- Settles O49: `CONSUMER` stays at a place of its command (`step_commandPlace`), and every place meets the lock premise. -/
theorem disciplineKeepsLockPremise : Obligations.DisciplineKeepsLockPremise := by
  intro s t hs hstep
  have ht : t.CommandPlace := step_commandPlace (State.consumerDisciplined_iff.1 hs) hstep
  exact ⟨State.consumerDisciplined_iff.2 ht, ht.lockPremise⟩

end

section
/-! The transactions that a slot issues (20_memory.md R35, R40). -/

namespace Sys2Proof.Machine

variable {s t : State} {p : Params} {i : Instr} {l : BitLoc}

theorem validPin_of_outLoc {pin : Nat} (h : outLoc p pin = some l) : validPin pin = true := by
  by_contra hinvalid
  obtain ⟨-, hnone, -⟩ := locs_of_invalid p pin (by simpa using hinvalid)
  simp [hnone] at h

theorem validPin_of_dirLoc {pin : Nat} (h : dirLoc p pin = some l) : validPin pin = true := by
  by_contra hinvalid
  obtain ⟨-, -, hnone⟩ := locs_of_invalid p pin (by simpa using hinvalid)
  simp [hnone] at h

/-- The registers that hold input bits (10_state.md R26). -/
theorem inLoc_addr {pin : Nat} (h : inLoc p pin = some l) : l.addr ∈ [p.addrA, p.addrB, p.addrE] := by
  rcases locs_of_valid p pin (validPin_of_inLoc h) with ⟨-, -, hi, -⟩ | ⟨-, -, hi, -⟩ | ⟨-, -, hi, -⟩ <;>
    obtain rfl := Option.some.inj (hi.symm.trans h) <;> simp

/-- The registers that hold output bits (10_state.md R26). -/
theorem outLoc_addr {pin : Nat} (h : outLoc p pin = some l) : l.addr ∈ [p.addrA, p.addrC, p.addrF] := by
  rcases locs_of_valid p pin (validPin_of_outLoc h) with ⟨-, -, -, ho, -⟩ | ⟨-, -, -, ho, -⟩ | ⟨-, -, -, ho, -⟩ <;>
    obtain rfl := Option.some.inj (ho.symm.trans h) <;> simp

/-- The registers that hold direction bits (10_state.md R26). -/
theorem dirLoc_addr {pin : Nat} (h : dirLoc p pin = some l) : l.addr ∈ [p.addrA, p.addrD, p.addrG] := by
  rcases locs_of_valid p pin (validPin_of_dirLoc h) with ⟨-, -, -, -, hd⟩ | ⟨-, -, -, -, hd⟩ | ⟨-, -, -, -, hd⟩ <;>
    obtain rfl := Option.some.inj (hd.symm.trans h) <;> simp

/-- The registers that the block writes: all but `B` and `E` (20_memory.md R35). -/
abbrev writableAddrs (p : Params) : List Addr := [p.addrA, p.addrC, p.addrD, p.addrF, p.addrG]

theorem outLoc_addr_writable {pin : Nat} (h : outLoc p pin = some l) : l.addr ∈ writableAddrs p := by
  have := outLoc_addr h
  grind

theorem dirLoc_addr_writable {pin : Nat} (h : dirLoc p pin = some l) : l.addr ∈ writableAddrs p := by
  have := dirLoc_addr h
  grind

theorem allowedTxn_poke (v : Word) {a : Addr} (h : a ∈ writableAddrs p) : allowedTxn p (.poke a v) = true :=
  decide_eq_true h

/-- What the block may write it may read. -/
theorem allowedTxn_peek (w : Word) {a : Addr} (h : a ∈ writableAddrs p ∨ a ∈ [p.addrA, p.addrB, p.addrE]) :
    allowedTxn p (.peek a w) = true := by
  simp only [allowedTxn, decide_eq_true_eq]
  grind

namespace BlockAction

/-- The bus transaction that an action issues. -/
def transaction (s : State) : BlockAction → Option BusOp
  | .read a _ => some (.peek a (s.answer a).1)
  | .readBit l => some (.peek l.addr (s.answer l.addr).1)
  | .write l level _ | .writeLast l level => some (.poke l.addr (forceBit level s.latch l.off))
  | .accept _ _ | .hold => none

theorem apply_trace_eq (m : BlockAction) (s : State) :
    (m.apply s).trace = s.trace ++ (m.transaction s).toList.map (⟨.prm, ·⟩) := by
  cases m with
  | accept c pin =>
    rw [apply, State.accept_eq]
    simp [transaction]
  | _ => simp [apply, transaction]

end BlockAction

/-- Every transaction of an operation is one that 20_memory.md R35 allows. -/
theorem blockAction_allowed {ph : Phase} {m : BlockAction} {op : BusOp} (h : blockAction p i ph = some m)
    (hop : m.transaction s = some op) : allowedTxn p op = true := by
  cases i <;> cases ph <;> simp only [blockAction, Option.map_eq_some_iff, Option.some.injEq, reduceCtorEq] at h
  case getpin.rd1 =>
    obtain ⟨l, hl, rfl⟩ := h
    obtain rfl := Option.some.inj hop
    exact allowedTxn_peek _ (.inr (inLoc_addr hl))
  case setpinHiz.rd1 | setpinLow.rd2 | setpinHigh.rd2 =>
    obtain ⟨l, hl, rfl⟩ := h
    obtain rfl := Option.some.inj hop
    exact allowedTxn_peek _ (.inl (dirLoc_addr_writable hl))
  case setpinLow.rd1 | setpinHigh.rd1 =>
    obtain ⟨l, hl, rfl⟩ := h
    obtain rfl := Option.some.inj hop
    exact allowedTxn_peek _ (.inl (outLoc_addr_writable hl))
  case setpinHiz.wr1 | setpinLow.wr2 | setpinHigh.wr2 =>
    obtain ⟨l, hl, rfl⟩ := h
    obtain rfl := Option.some.inj hop
    exact allowedTxn_poke _ (dirLoc_addr_writable hl)
  case setpinLow.wr1 | setpinHigh.wr1 =>
    obtain ⟨l, hl, rfl⟩ := h
    obtain rfl := Option.some.inj hop
    exact allowedTxn_poke _ (outLoc_addr_writable hl)
  all_goals
    subst h
    cases hop

/-- A slot from `s` to `t` issues at most one transaction (20_memory.md R40): an allowed one of the block, or one of `OTHER`
while `CONSUMER` has not the lock (R46). -/
inductive State.SlotTraffic (s t : State) : Prop where
  | silent (htrace : t.trace = s.trace)
  | block {op : BusOp} (htrace : t.trace = s.trace ++ [⟨.prm, op⟩]) (hallowed : allowedTxn s.params op = true)
  | other {op : BusOp} (htrace : t.trace = s.trace ++ [⟨.other, op⟩]) (hlock : s.lock ≠ .consumer)

theorem blockStep_traffic (h : blockStep s = .next t) : s.SlotTraffic t := by
  rcases blockStep_next h with ⟨-, rfl⟩ | ⟨i, -, hexec⟩ | ⟨w, -, rfl⟩
  case inl => exact .silent rfl
  case inr.inl =>
    obtain ⟨m, hm, rfl⟩ := exec_next hexec
    have htrace := m.apply_trace_eq s
    cases hop : m.transaction s with
    | none => exact .silent (by simpa [hop] using htrace)
    | some op => exact .block (by simpa [hop] using htrace) (blockAction_allowed hm hop)
  case inr.inr => exact .silent rfl

theorem otherStep_traffic (s : State) : s.SlotTraffic (otherStep s) := by
  rcases otherStep_cases s with
    heq | ⟨rest, -, -, heq⟩ | ⟨a, rest, -, hlock, heq⟩ | ⟨a, v, rest, -, hlock, heq⟩ | ⟨rest, -, heq⟩ <;>
    rw [heq]
  case inr.inr.inl => exact .other (s.busPeek_trace .other a) hlock
  case inr.inr.inr.inl => exact .other (s.busPoke_trace .other a v) hlock
  all_goals exact .silent rfl

/-- A slot of `CONSUMER` issues no transaction, and leaves the parameters. -/
theorem consumerStep_trace_params (s : State) :
    (consumerStep s).trace = s.trace ∧ (consumerStep s).params = s.params := by
  rcases consumerStep_cases s with
    heq | ⟨_, _, _, heq⟩ | ⟨_, _, _, _, heq⟩ | ⟨_, _, _, heq⟩ | ⟨_, _, heq⟩ <;>
    simp [heq]

/-- The transactions of a step. -/
theorem step_traffic (h : step s = .next t) : s.SlotTraffic t := by
  obtain ⟨u, hu, hslot⟩ := step_next h
  suffices hslot : u.SlotTraffic t by
    rw [hu] at hslot
    cases hslot with
    | silent htrace => exact .silent htrace
    | block htrace hallowed => exact .block htrace hallowed
    | other htrace hlock => exact .other htrace hlock
  rcases hslot with hblock | rfl | rfl | rfl | rfl
  · exact blockStep_traffic hblock
  · obtain ⟨htrace, -⟩ := consumerStep_trace_params u
    exact .silent htrace
  · exact otherStep_traffic u
  · exact .silent (by rw [worldStep_eq])
  · exact .silent rfl

/-! The parameters, and the lock of `CONSUMER`. -/

theorem blockStep_params (h : blockStep s = .next t) : t.params = s.params := by
  rcases blockStep_next h with ⟨-, rfl⟩ | ⟨i, -, hexec⟩ | ⟨w, -, rfl⟩
  · rfl
  · obtain ⟨m, -, rfl⟩ := exec_next hexec
    obtain ⟨hparams, -⟩ := m.apply_frame s
    exact hparams
  · rfl

theorem otherStep_params (s : State) : (otherStep s).params = s.params := by
  rcases otherStep_cases s with
    heq | ⟨_, _, _, heq⟩ | ⟨_, _, _, _, heq⟩ | ⟨_, _, _, _, _, heq⟩ | ⟨_, _, heq⟩ <;>
    rw [heq] <;> simp

/-- No step changes the parameters (log entry 1). -/
theorem step_params (h : step s = .next t) : t.params = s.params := by
  obtain ⟨u, hu, hslot⟩ := step_next h
  rw [show s.params = u.params by rw [hu]]
  rcases hslot with hblock | rfl | rfl | rfl | rfl
  · exact blockStep_params hblock
  · obtain ⟨-, hparams⟩ := consumerStep_trace_params u
    exact hparams
  · exact otherStep_params u
  · rw [worldStep_eq]
  · rfl

/-- Only a slot of `CONSUMER` takes or gives back its lock (20_memory.md R46, log entry 11). -/
theorem step_consumer_lock (h : step s = .next t) (hmover : s.nextSlot.1 ≠ .consumer) :
    t.lock = .consumer ↔ s.lock = .consumer := by
  have hlock : s.nextSlot.2.lock = s.lock := by rw [State.nextSlot_eq]
  rw [step] at h
  rw [← hlock]
  cases hm : s.nextSlot.1 with
  | consumer => exact absurd hm hmover
  | prm =>
    rw [hm] at h
    exact (blockStep_keepsPlace h).lock
  | other =>
    rw [hm] at h
    obtain rfl := Host.Outcome.next.inj h
    exact (otherStep_keepsPlace _).lock
  | world =>
    rw [hm] at h
    obtain rfl := Host.Outcome.next.inj h
    exact (worldStep_keepsPlace _).lock
  | reset =>
    rw [hm] at h
    obtain rfl := Host.Outcome.next.inj h
    exact (resetBlock_keepsPlace _).lock

/-! The block's part of a trace that has grown. -/

theorem blockTrace_append_prm (l : List Txn) (op : BusOp) : blockTrace (l ++ [⟨.prm, op⟩]) = blockTrace l ++ [op] := by
  simp [blockTrace]

theorem blockTrace_append_other (l : List Txn) (op : BusOp) : blockTrace (l ++ [⟨.other, op⟩]) = blockTrace l := by
  simp [blockTrace]

end Sys2Proof.Machine
end

section

open Sys2Proof Sys2Proof.Machine

/-- Settles O33: `step_traffic` says whose the transaction is, and `step_consumer_lock` who gives the lock back. -/
theorem lockExcludesOther : Obligations.LockExcludesOther := by
  intro s t hstep
  refine ⟨?traffic, fun hlock => ?lock⟩
  case traffic =>
    cases step_traffic hstep with
    | silent htrace => exact .inl htrace
    | block htrace _ => exact .inr ⟨_, htrace, fun _ => rfl⟩
    | other htrace hfree => exact .inr ⟨_, htrace, fun hlock => absurd hlock hfree⟩
  case lock =>
    by_cases hmover : s.nextSlot.1 = .consumer
    · exact .inr hmover
    · exact .inl ((step_consumer_lock hstep hmover).2 hlock)

/-- Settles O47: the block's part of the trace grows by an allowed transaction at most. -/
theorem blockPresentsAllowed : Obligations.BlockPresentsAllowed := by
  intro s t hs hstep
  rw [State.traceAllowed, step_params hstep]
  rw [State.traceAllowed] at hs
  cases step_traffic hstep with
  | silent htrace => rwa [htrace]
  | block htrace hallowed =>
    rw [htrace, blockTrace_append_prm, List.all_append, hs]
    simpa using hallowed
  | other htrace _ => rwa [htrace, blockTrace_append_other]

end

section
/-! A write of `OTHER` between the halves of a read-modify-write (20_memory.md R45). -/

namespace Sys2Proof.Machine

variable {s : State} {i : Instr} {l : BitLoc}

/-- Where a phase writes, the place is one that the reference environment stores. -/
theorem stored_of_writeLoc {p : Params} {ph : Phase} (h : writeLoc p i ph = some l) : l.Stored p := by
  have hout {pin : Nat} (hl : outLoc p pin = some l) : l.Stored p := by
    obtain ⟨o, _, ho, -, hstored, -⟩ := stored_of_validPin p (validPin_of_outLoc hl)
    obtain rfl := Option.some.inj (ho.symm.trans hl)
    exact hstored
  have hdir {pin : Nat} (hl : dirLoc p pin = some l) : l.Stored p := by
    obtain ⟨_, d, -, hd, -, hstored, -⟩ := stored_of_validPin p (validPin_of_dirLoc hl)
    obtain rfl := Option.some.inj (hd.symm.trans hl)
    exact hstored
  unfold writeLoc at h
  split at h
  next => exact hdir h
  next => exact hout h
  next => exact hout h
  next => exact hdir h
  next => exact hdir h
  next => cases h

/-- In a phase that writes, the action is the write of `writeLoc`'s bit at `writeLevel`'s level: the command's last one, or the
first of two (41_rmw_sequencer.md R80, R82). -/
theorem blockAction_of_writeLoc {p : Params} {ph : Phase} (h : writeLoc p i ph = some l) :
    blockAction p i ph = some (.writeLast l (writeLevel i ph)) ∨
      blockAction p i ph = some (.write l (writeLevel i ph) .rd2) := by
  unfold writeLoc at h
  split at h
  next => exact .inl (by simp [blockAction, writeLevel, h])
  next => exact .inr (by simp [blockAction, writeLevel, h])
  next => exact .inr (by simp [blockAction, writeLevel, h])
  next => exact .inl (by simp [blockAction, writeLevel, h])
  next => exact .inl (by simp [blockAction, writeLevel, h])
  next => cases h

/-- A command that writes in `WR1` reads the same register in `RD1` (41_rmw_sequencer.md R78, R79). -/
theorem blockAction_rd1_of_writeLoc {p : Params} (h : writeLoc p i .wr1 = some l) :
    blockAction p i .rd1 = some (.read l.addr .wr1) := by
  cases i <;> simp only [writeLoc, reduceCtorEq] at h <;> simp [blockAction, h]

/-- The word that the phase writes: `LATCH` with one bit forced (41_rmw_sequencer.md R75). -/
def State.writeWord (s : State) (i : Instr) (l : BitLoc) : Word := forceBit (writeLevel i s.phase) s.latch l.off

/-- A phase that writes, in the reference environment. -/
theorem exec_of_writeLoc (h : writeLoc s.params i s.phase = some l) (hdevice : s.device = .reference) :
    ∃ t, exec i s = .next t ∧ t.trace = s.trace ++ [⟨.prm, .poke l.addr (s.writeWord i l)⟩] ∧
      t.bank = (s.refPoke l.addr (s.writeWord i l)).bank := by
  rcases blockAction_of_writeLoc h with hm | hm <;>
    exact ⟨_, by rw [exec_eq_outcome, hm]; rfl, by simp [BlockAction.apply, State.writeWord],
      by simp [BlockAction.apply, State.writeWord, hdevice]⟩

/-- The read that comes before it, in the reference environment. -/
theorem exec_rd1_of_writeLoc (hphase : s.phase = .rd1) (h : writeLoc s.params i .wr1 = some l)
    (hdevice : s.device = .reference) :
    exec i s = .next
      { s with
        phase := .wr1
        latch := s.refPeek l.addr
        trace := s.trace ++ [⟨.prm, .peek l.addr (s.refPeek l.addr)⟩] } := by
  rw [exec_eq_outcome, hphase, blockAction_rd1_of_writeLoc h, BlockAction.outcome, BlockAction.apply, State.readLatch,
    State.busPeek_reference_eq s .prm l.addr hdevice]
  rfl

/-- A scheduled slot of the block, with a command in progress, is a step of that command (41_rmw_sequencer.md R76). -/
theorem step_of_schedule_prm {rest : List Mover} (hschedule : s.schedule = .prm :: rest) (hcmd : decode s.cmd = .ok i)
    (hphase : s.phase ∈ [.rd1, .wr1, .rd2, .wr2]) : step s = exec i { s with schedule := rest } := by
  have hfetch : State.fetch { s with schedule := rest } = .command i := by
    simp only [List.mem_cons, List.not_mem_nil, or_false] at hphase
    rcases hphase with h | h | h | h <;> simp only [State.fetch, h, hcmd]
  rw [step_of_schedule_cons hschedule, slotStep, blockStep, hfetch]

/-- Of two writes of one register the second alone is left. -/
theorem State.bankRead_refPoke_refPoke (s : State) (a b : Addr) (v w : Word) :
    ((s.refPoke a v).refPoke a w).bankRead b = (s.refPoke a w).bankRead b := by
  by_cases hb : b = a
  case neg => simp only [State.bankRead_refPoke_ne _ _ _ _ hb]
  case pos =>
    subst hb
    by_cases hA : b = s.params.addrA
    case neg =>
      simp only [State.bankRead_refPoke, State.refPoke_params, if_true, if_neg hA]
      split <;> rfl
    case pos =>
      have hkept : ((s.refPoke b v).bankRead b).extractLsb' 12 4 = (s.bankRead b).extractLsb' 12 4 := by
        rw [State.bankRead_refPoke, if_pos rfl, if_pos hA]
        refine BitVec.eq_of_getLsbD_eq fun j hj => ?_
        simp only [BitVec.getLsbD_extractLsb', BitVec.getLsbD_append]
        simp [hj]
      rw [State.bankRead_refPoke, State.refPoke_params, if_pos rfl, if_pos hA, hkept, State.bankRead_refPoke,
        if_pos rfl, if_pos hA]

/-- A stored bit of a register, after a write of the register, is the written word's. -/
theorem State.bankRead_refPoke_stored (v : Word) {j : Nat} (hl : l.Stored s.params)
    (hj : l.addr = s.params.addrA → j < 12) : ((s.refPoke l.addr v).bankRead l.addr).getLsbD j = v.getLsbD j := by
  by_cases hA : l.addr = s.params.addrA
  · rw [hA, s.bankRead_refPoke_addrA v (hj hA)]
  · rw [State.bankRead_refPoke, if_pos rfl, if_neg hA, if_neg (not_or_intro hl.addr_ne_addrB hl.addr_ne_addrE)]

/-- The block has read a register in `RD1`, and `OTHER` has then written it. -/
def State.afterReadAndOther (s : State) (a : Addr) (v : Word) (ops : List OtherOp) (rest : List Mover) : State :=
  { s with
    phase := .wr1
    latch := s.refPeek a
    bank := (s.refPoke a v).bank
    other := ops
    schedule := rest
    trace := s.trace ++ [⟨.prm, .peek a (s.refPeek a)⟩] ++ [⟨.other, .poke a v⟩] }

theorem run_read_other (n : Nat) {v : Word} {ops : List OtherOp} {rest : List Mover} (hcmd : decode s.cmd = .ok i)
    (hphase : s.phase = .rd1) (hloc : writeLoc s.params i .wr1 = some l) (hdevice : s.device = .reference)
    (hlock : s.lock ≠ .consumer) (hother : s.other = .poke l.addr v :: ops) (hschedule : s.schedule = .prm :: .other :: rest) :
    run (n + 2) s = run n (s.afterReadAndOther l.addr v ops rest) := by
  let read : State :=
    { s with
      schedule := .other :: rest
      phase := .wr1
      latch := s.refPeek l.addr
      trace := s.trace ++ [⟨.prm, .peek l.addr (s.refPeek l.addr)⟩] }
  let reached : State := { read with schedule := rest }
  have hread : step s = .next read :=
    (step_of_schedule_prm hschedule hcmd (by simp [hphase])).trans
      (exec_rd1_of_writeLoc (s := { s with schedule := .other :: rest }) hphase hloc hdevice)
  have hpoke : step read = .next (s.afterReadAndOther l.addr v ops rest) := by
    have hbank : (reached.refPoke l.addr v).bank = (s.refPoke l.addr v).bank := State.refPoke_bank_congr rfl rfl
    rw [step_of_schedule_cons (s := read) rfl, State.afterReadAndOther, ← hbank]
    exact congrArg Host.Outcome.next (otherStep_poke_of_admitted (s := reached) hother hlock hdevice)
  rw [run_succ_of_step hread, run_succ_of_step hpoke]

end Sys2Proof.Machine
end

section

open Sys2Proof Sys2Proof.Machine

/-- Settles O34: the block writes from `LATCH`, which holds what it read before `OTHER` wrote (`run_read_other`), and of two
writes of one register the second alone is left. -/
theorem lostUpdate : Obligations.LostUpdate := by
  intro i s l v ops rest hcmd hphase hloc hdevice hlock hother hschedule
  have hstored : l.Stored s.params := stored_of_writeLoc hloc
  let raced : State := s.afterReadAndOther l.addr v ops (.prm :: rest)
  let u : State := { raced with schedule := rest }
  obtain ⟨t, hexec, htrace, hbank⟩ := exec_of_writeLoc (s := u) hloc hdevice
  let x : Word := u.writeWord i l
  have hrun : run 3 s = .next t := by
    have hstep : step raced = .next t :=
      (step_of_schedule_prm (s := raced) rfl hcmd (by simp [raced, State.afterReadAndOther])).trans hexec
    rw [run_read_other 1 hcmd hphase hloc hdevice hlock hother hschedule, run_succ_of_step hstep, run]
  have hregister (a : Addr) : t.bankRead a = (s.refPoke l.addr x).bankRead a := by
    have hsame : t.bank = ((s.refPoke l.addr v).refPoke l.addr x).bank :=
      hbank.trans (State.refPoke_bank_congr (s.refPoke_params l.addr v).symm rfl)
    rw [← State.bankRead_refPoke_refPoke s l.addr a v x, State.bankRead, hsame, State.bankRead]
  refine ⟨t, x, hrun, fun j => ?word, ?trace, hregister, fun j hj => ?bits⟩
  case word => exact forceBit_getLsbD _ _ j hstored.off_lt
  case trace =>
    refine htrace.trans ?_
    simp only [u, raced, x, State.afterReadAndOther, List.append_assoc, List.cons_append, List.nil_append]
  case bits => rw [hregister, State.bankRead_refPoke_stored x hstored hj]

end

section
/-! The command word and its fields: a word is the row of its fields, each field is a quotient of the word's number, and
where the decoder answers an operation the fields are that operation's (30_encoding.md R50, R55 to R58). -/

namespace Sys2Proof.Machine

open Sys2Proof.Laws
open Sys2Proof.Laws.OpcodeRow (rowMatch)

variable {w : Word} {i : Instr}

/-! The fields as numbers. -/

theorem zeroField_toNat (w : Word) : (zeroField w).toNat = w.toNat / 2048 := by
  have hlt : w.toNat < 65536 := w.isLt
  rw [zeroField, BitVec.extractLsb'_toNat, Nat.shiftRight_eq_div_pow]
  omega

theorem opField_toNat (w : Word) : (opField w).toNat = w.toNat / 1024 % 2 := by
  rw [opField, BitVec.extractLsb'_toNat, Nat.shiftRight_eq_div_pow]

theorem stateField_toNat (w : Word) : (stateField w).toNat = w.toNat / 256 % 4 := by
  rw [stateField, BitVec.extractLsb'_toNat, Nat.shiftRight_eq_div_pow]

theorem pinField_eq_mod (w : Word) : pinField w = w.toNat % 256 := by
  rw [pinField, BitVec.extractLsb'_toNat, Nat.shiftRight_zero]

theorem zeroField_eq_zero_iff : zeroField w = 0 ↔ w.toNat / 2048 = 0 := by
  rw [← zeroField_toNat, BitVec.toNat_eq]
  rfl

theorem opField_eq_zero_iff : opField w = 0 ↔ w.toNat / 1024 % 2 = 0 := by
  rw [← opField_toNat, BitVec.toNat_eq]
  rfl

theorem stateField_eq_iff (c : BitVec 2) : stateField w = c ↔ w.toNat / 256 % 4 = c.toNat := by
  rw [← stateField_toNat, BitVec.toNat_eq]

theorem pinField_le (w : Word) : pinField w ≤ 255 := by
  rw [pinField_eq_mod]
  omega

/-! The word and its parts. -/

/-- A word is its four fields side by side (30_encoding.md R50). -/
theorem commandWord_of_fields (w : Word) :
    zeroField w ++ opField w ++ stateField w ++ BitVec.ofNat 8 (pinField w) = w := by
  have hpin : BitVec.ofNat 8 (pinField w) = w.extractLsb' 0 8 := by
    rw [pinField, BitVec.ofNat_toNat, BitVec.setWidth_eq]
  have hupper : zeroField w ++ opField w = w.extractLsb' 10 6 :=
    BitVec.extractLsb'_append_extractLsb'_eq_extractLsb' rfl
  have hbyte : w.extractLsb' 10 6 ++ stateField w = w.extractLsb' 8 8 :=
    BitVec.extractLsb'_append_extractLsb'_eq_extractLsb' rfl
  have hword : w.extractLsb' 8 8 ++ w.extractLsb' 0 8 = w :=
    (BitVec.extractLsb'_append_extractLsb'_eq_extractLsb' rfl).trans BitVec.extractLsb'_eq_self
  rw [hpin, hupper, hbyte, hword]

/-- The upper byte and the `PIN` field of a word do not overlap, so putting them side by side is or-ing them. -/
theorem commandWord_eq_or (op : BitVec 1) (st : BitVec 2) {pin : Nat} (h : pin ≤ 255) :
    (0#5 ++ op ++ st ++ BitVec.ofNat 8 pin : Word) = 0#5 ++ op ++ st ++ 0#8 ||| BitVec.ofNat 16 pin := by
  refine BitVec.eq_of_getLsbD_eq fun j hj => ?_
  simp only [BitVec.getLsbD_or, commandWord_getLsbD, BitVec.getLsbD_ofNat, hj, decide_true, Bool.true_and]
  by_cases hlow : j < 8
  · simp [hlow]
  · have hlt : pin < 2 ^ j := calc
      pin < 2 ^ 8 := Nat.lt_succ_of_le h
      _ ≤ 2 ^ j := Nat.pow_le_pow_right two_pos (Nat.le_of_not_lt hlow)
    simp [hlow, Nat.testBit_lt_two_pow hlt]

/-- The word of an operation is the match of its row or-ed with the pin (30_encoding.md R58). -/
theorem encode_eq_rowMatch_or (h : i.pin ≤ 255) : encode i = rowMatch i ||| BitVec.ofNat 16 i.pin := by
  have hmatch : encode i &&& 0xFF00#16 = rowMatch i := by
    cases i with
    | getpin pin => exact OpcodeRow.getpin pin
    | setpinLow pin => exact OpcodeRow.setpinLow pin
    | setpinHigh pin => exact OpcodeRow.setpinHigh pin
    | setpinHiz pin => exact OpcodeRow.setpinHiz pin
  rw [← hmatch, encode, OpcodeRow.upper_byte]
  exact commandWord_eq_or i.op i.stateCode h

/-! What the decoder can answer. -/

/-- Where the decoder answers an operation, the fields of the word are the operation's (30_encoding.md R55). -/
theorem fields_of_decode (h : decode w = .ok i) :
    zeroField w = 0 ∧ opField w = i.op ∧ stateField w = i.stateCode ∧ pinField w = i.pin := by
  have hone : opField w ≠ 0 → opField w = 1 := (BitVec.eq_zero_or_eq_one _).resolve_left
  unfold decode at h
  split_ifs at h with hzero hop hget hlow hhigh hhiz
  all_goals cases h
  · exact ⟨not_not.mp hzero, hop, hget, rfl⟩
  · exact ⟨not_not.mp hzero, hone hop, hlow, rfl⟩
  · exact ⟨not_not.mp hzero, hone hop, hhigh, rfl⟩
  · exact ⟨not_not.mp hzero, hone hop, hhiz, rfl⟩

/-- The word of what a word decodes to is that word again (30_encoding.md R55, R58). -/
theorem encode_of_decode (h : decode w = .ok i) : encode i = w := by
  obtain ⟨hzero, hop, hstate, hpin⟩ := fields_of_decode h
  calc encode i = zeroField w ++ opField w ++ stateField w ++ BitVec.ofNat 8 (pinField w) := by
        rw [encode, hzero, hop, hstate, hpin]; rfl
    _ = w := commandWord_of_fields w

/-- The pin that the decoder answers is a value of the `PIN` field (30_encoding.md R53). -/
theorem pin_le_of_decode (h : decode w = .ok i) : i.pin ≤ 255 := by
  obtain ⟨-, -, -, hpin⟩ := fields_of_decode h
  exact hpin ▸ pinField_le w

end Sys2Proof.Machine
end

section

open Sys2Proof Sys2Proof.Machine

/-- Settles O1: the decoder reads each field of the word back (`fields_of_commandWord`, in `decode_encode`), and a pin of 0 to
255 survives its field. -/
theorem decodeOfEncode : Obligations.DecodeOfEncode := by
  intro i hwf
  exact decode_encode (of_decide_eq_true hwf)

/-- Settles O2: the fields of the word are those of the operation (`fields_of_decode`), and a word is its fields. -/
theorem encodeOfDecode : Obligations.EncodeOfDecode := by
  intro w i h
  exact ⟨decide_eq_true (pin_le_of_decode h), encode_of_decode h⟩

/-- Settles O4: each test and each operand of the decoder is a field, and each field is a quotient of the word's number. -/
theorem decodeByFields : Obligations.DecodeByFields := by
  intro w
  rw [decode]
  simp only [ne_eq, zeroField_eq_zero_iff, opField_eq_zero_iff, stateField_eq_iff, pinField_eq_mod]
  rfl

/-- Settles O5: the decoder's tests on the word's number (O4), and the words that each of its three refusals covers. -/
theorem reservedWords : Obligations.ReservedWords := by
  intro w
  rw [decodeByFields w]
  split_ifs with hzero hop hget hlow hhigh hhiz
  all_goals simp only [reduceCtorEq, Except.error.injEq, true_iff, false_iff]
  all_goals omega

/-- Settles O3: the word of an operation is its row's match or-ed with the pin (`encode_eq_rowMatch_or`). -/
theorem encodedWords : Obligations.EncodedWords := fun _ h =>
  ⟨encode_eq_rowMatch_or h, encode_eq_rowMatch_or h, encode_eq_rowMatch_or h, encode_eq_rowMatch_or h⟩

/-- Settles O6: the first four are the words of their operations, the last three lie in the three reserved blocks (O5). -/
theorem sampleWordsDecode : Obligations.SampleWordsDecode := by
  obtain ⟨hgetpin, -, -⟩ := reservedWords 0b0000000100100111#16
  obtain ⟨-, hstate, -⟩ := reservedWords 0b0000011100100111#16
  obtain ⟨-, -, hzero⟩ := reservedWords 0b1000010100100111#16
  refine ⟨decode_encode (i := .getpin 39) ?_, decode_encode (i := .setpinHigh 39) ?_, decode_encode (i := .setpinLow 25) ?_,
    decode_encode (i := .setpinHiz 25) ?_, hgetpin.mpr ?_, hstate.mpr ?_, hzero.mpr ?_⟩
  all_goals decide

end

section
/-! The places of the pins, and the pin of a place (40_pin_decode.md R62 to R70, R73). -/

namespace Sys2Proof.Machine

/-- The places of a pin's input, output and direction bit (10_state.md R26). -/
abbrev pinLocs (p : Params) (pin : Nat) : List (Option BitLoc) := [inLoc p pin, outLoc p pin, dirLoc p pin]

/-- The one pin that a register bit can belong to. In `A` the four pins come round again in every field of four bits; in the
registers of the other two ranges the bits are the pins in order. -/
def pinOfBit (p : Params) (l : BitLoc) : Nat :=
  if l.addr = p.addrA then 37 + l.off % 4
  else if l.addr ∈ [p.addrB, p.addrC, p.addrD] then 21 + l.off
  else 5 + l.off

theorem pinOfBit_addrA (p : Params) (j : Nat) : pinOfBit p ⟨p.addrA, j⟩ = 37 + j % 4 := if_pos rfl

theorem pinOfBit_range21to36 {p : Params} {a : Addr} (j : Nat) (h : a ∈ [p.addrB, p.addrC, p.addrD]) :
    pinOfBit p ⟨a, j⟩ = 21 + j := by
  have hA : a ≠ p.addrA := by
    have := p.distinct
    grind
  rw [pinOfBit, if_neg hA, if_pos h]

theorem pinOfBit_range5to20 {p : Params} {a : Addr} (j : Nat) (h : a ∈ [p.addrE, p.addrF, p.addrG]) :
    pinOfBit p ⟨a, j⟩ = 5 + j := by
  have hdistinct := p.distinct
  have hA : a ≠ p.addrA := by grind
  have hBCD : a ∉ [p.addrB, p.addrC, p.addrD] := by grind
  rw [pinOfBit, if_neg hA, if_neg hBCD]

/-- Each of a pin's three bits belongs to that pin (40_pin_decode.md R73). -/
theorem pinOfBit_of_mem {p : Params} {pin : Nat} {l : BitLoc} (hvalid : validPin pin = true)
    (h : some l ∈ pinLocs p pin) : pinOfBit p l = pin := by
  rcases locs_of_valid p pin hvalid with ⟨h1, h2, hi, ho, hd⟩ | ⟨h1, h2, hi, ho, hd⟩ | ⟨h1, h2, hi, ho, hd⟩
  all_goals
    simp only [hi, ho, hd, List.mem_cons, List.not_mem_nil, or_false, Option.some.injEq] at h
    rcases h with rfl | rfl | rfl
  case inl.inl | inl.inr.inl | inl.inr.inr =>
    rw [pinOfBit_addrA]
    omega
  case inr.inl.inl | inr.inl.inr.inl | inr.inl.inr.inr =>
    rw [pinOfBit_range21to36 _ (by simp)]
    omega
  case inr.inr.inl | inr.inr.inr.inl | inr.inr.inr.inr =>
    rw [pinOfBit_range5to20 _ (by simp)]
    omega

/-- The three bits of a valid pin are there. -/
theorem none_notMem_pinLocs (p : Params) {pin : Nat} (h : validPin pin = true) : none ∉ pinLocs p pin := by
  rcases locs_of_valid p pin h with ⟨-, -, hi, ho, hd⟩ | ⟨-, -, hi, ho, hd⟩ | ⟨-, -, hi, ho, hd⟩ <;> simp [hi, ho, hd]

/-- The three bits of a valid pin are three places: three offsets of `A`, or one offset in three registers. -/
theorem pinLocs_nodup (p : Params) {pin : Nat} (h : validPin pin = true) : (pinLocs p pin).Nodup := by
  have hdistinct := p.distinct
  rcases locs_of_valid p pin h with ⟨h1, h2, hi, ho, hd⟩ | ⟨-, -, hi, ho, hd⟩ | ⟨-, -, hi, ho, hd⟩
  case inl =>
    have hin : pin - 25 ≠ pin - 29 ∧ pin - 25 ≠ pin - 33 := by omega
    have hout : pin - 29 ≠ pin - 33 := by omega
    simp [hi, ho, hd, hin, hout]
  case inr.inl =>
    have hin : p.addrB ≠ p.addrC ∧ p.addrB ≠ p.addrD := by grind
    have hout : p.addrC ≠ p.addrD := by grind
    simp [hi, ho, hd, hin, hout]
  case inr.inr =>
    have hin : p.addrE ≠ p.addrF ∧ p.addrE ≠ p.addrG := by grind
    have hout : p.addrF ≠ p.addrG := by grind
    simp [hi, ho, hd, hin, hout]

/-- Two valid pins that share a bit are one pin (40_pin_decode.md R73). -/
theorem pinLocs_disjoint (p : Params) {q r : Nat} (hq : validPin q = true) (hr : validPin r = true) (hne : q ≠ r) :
    (pinLocs p q).Disjoint (pinLocs p r) := by
  intro place hmemq hmemr
  cases place with
  | none => exact none_notMem_pinLocs p hq hmemq
  | some l => exact hne ((pinOfBit_of_mem hq hmemq).symm.trans (pinOfBit_of_mem hr hmemr))

theorem validPin_eq_false_iff (pin : Nat) : validPin pin = false ↔ pin < 5 ∨ 40 < pin := by
  rw [← Bool.not_eq_true, validPin_iff]
  omega

/-- From pin 41 on nothing more is valid, so every longer range of numbers holds the same 36 valid pins
(40_pin_decode.md R64). -/
theorem countP_validPin_range {n : Nat} (h : 41 ≤ n) : (List.range n).countP validPin = 36 := by
  induction n, h using Nat.le_induction with
  | base => decide
  | succ n hle ih =>
    have hinvalid : validPin n = false := (validPin_eq_false_iff n).mpr (.inr hle)
    simp [List.range_succ, ih, hinvalid]

/-- The three offsets of a valid pin, range by range (40_pin_decode.md R68 to R70). -/
theorem offs_of_valid {pin : Nat} (h : validPin pin = true) :
    (37 ≤ pin ∧ pin ≤ 40 ∧ inOff pin = some (pin - 25) ∧ outOff pin = some (pin - 29) ∧ dirOff pin = some (pin - 33)) ∨
      (21 ≤ pin ∧ pin ≤ 36 ∧ inOff pin = some (pin - 21) ∧ outOff pin = some (pin - 21) ∧ dirOff pin = some (pin - 21)) ∨
      (5 ≤ pin ∧ pin ≤ 20 ∧ inOff pin = some (pin - 5) ∧ outOff pin = some (pin - 5) ∧ dirOff pin = some (pin - 5)) := by
  rcases classify_cases pin with ⟨h1, h2, hc⟩ | ⟨h1, h2, hc⟩ | ⟨h1, h2, hc⟩ | ⟨-, hc⟩
  · exact .inl ⟨h1, h2, by simp only [inOff, outOff, dirOff, hc, and_self]⟩
  · exact .inr (.inl ⟨h1, h2, by simp only [inOff, outOff, dirOff, hc, and_self]⟩)
  · exact .inr (.inr ⟨h1, h2, by simp only [inOff, outOff, dirOff, hc, and_self]⟩)
  · simp [validPin, hc] at h

end Sys2Proof.Machine
end

section
/-! The laws of one bit of a word, for setting and clearing at once (40_pin_decode.md R71, R72). -/

namespace Sys2Proof.Machine

variable {level : Bool} {w : Word} {i j : Nat}

theorem mask_toNat (h : i < 16) : (mask i).toNat = 2 ^ i :=
  BitVec.toNat_twoPow_of_lt h

theorem getBit_forceBit_self (level : Bool) (w : Word) (hi : i < 16) :
    getBit (forceBit level w i) i = BitVec.ofBool level := by
  rw [getBit_eq, forceBit_getLsbD level w i hi, if_pos rfl]

theorem getBit_forceBit_of_ne (level : Bool) (w : Word) (hi : i < 16) (hne : j ≠ i) :
    getBit (forceBit level w i) j = getBit w j := by
  rw [getBit_eq, forceBit_getLsbD level w j hi, if_neg hne, getBit_eq]

/-- Putting a bit to the level it has changes nothing. -/
theorem forceBit_of_getBit (hi : i < 16) (h : getBit w i = BitVec.ofBool level) : forceBit level w i = w := by
  have hbit : w.getLsbD i = level := by
    rwa [getBit_eq, BitVec.ofBool_eq_iff_eq] at h
  refine BitVec.eq_of_getLsbD_eq fun k _ => ?_
  rw [forceBit_getLsbD level w k hi]
  split
  case isTrue hk => rw [hk, hbit]
  case isFalse => rfl

theorem forceBit_idem (level : Bool) (w : Word) (hi : i < 16) :
    forceBit level (forceBit level w i) i = forceBit level w i :=
  forceBit_of_getBit hi (getBit_forceBit_self level w hi)

/-- Two bits at different offsets can be put in either order, each to its own level. -/
theorem forceBit_comm (level level' : Bool) (w : Word) (hi : i < 16) (hj : j < 16) (hne : i ≠ j) :
    forceBit level (forceBit level' w j) i = forceBit level' (forceBit level w i) j := by
  refine BitVec.eq_of_getLsbD_eq fun k _ => ?_
  simp only [forceBit_getLsbD _ _ k hi, forceBit_getLsbD _ _ k hj]
  by_cases hk : k = i
  · rw [if_pos hk, if_neg (hk ▸ hne), if_pos hk]
  · rw [if_neg hk, if_neg hk]

end Sys2Proof.Machine
end

section

open Sys2Proof Sys2Proof.Machine

/-- Settles O11: a shared bit would belong to both pins, and a bit belongs to one (`pinOfBit_of_mem`). -/
theorem pinBitsDisjoint : Obligations.PinBitsDisjoint := fun p _ _ hq hr =>
  ⟨pinLocs_nodup p hq, none_notMem_pinLocs p hq, pinLocs_disjoint p hq hr⟩

/-- Settles O7: the four cases of `classify` exclude each other and leave no number out (`classify_cases`). -/
theorem classOfPin : Obligations.ClassOfPin := by
  intro pin
  rcases classify_cases pin with ⟨h1, h2, hc⟩ | ⟨h1, h2, hc⟩ | ⟨h1, h2, hc⟩ | ⟨h, hc⟩
  all_goals
    simp only [hc, validPin, decide_eq_true_eq, reduceCtorEq, true_iff, false_iff, ne_eq, not_true_eq_false,
      not_false_eq_true, and_true]
    omega

/-- Settles O8: 36 of the 256 are valid (`countP_validPin_range`), and the rest are not. -/
theorem invalidPins : Obligations.InvalidPins := by
  have hvalid : (List.range 256).countP validPin = 36 := countP_validPin_range (by omega)
  have htotal := List.length_eq_countP_add_countP validPin (l := List.range 256)
  refine ⟨?invalid, hvalid, fun pin _ => ?which⟩
  case invalid =>
    simp only [List.length_range, hvalid, Bool.not_eq_true, Bool.decide_eq_false] at htotal
    omega
  case which =>
    rw [validPin_eq_false_iff]
    omega

/-- Settles O9: a valid pin has the places of its range (`locs_of_valid`), any other number has none (`locs_of_invalid`). -/
theorem placesOfPins : Obligations.PlacesOfPins := by
  intro p pin
  cases hvalid : validPin pin with
  | true =>
    rcases locs_of_valid p pin hvalid with ⟨h1, h2, hlocs⟩ | ⟨h1, h2, hlocs⟩ | ⟨h1, h2, hlocs⟩
    · exact ⟨fun _ _ => hlocs, by omega, by omega, by omega⟩
    · exact ⟨by omega, fun _ _ => hlocs, by omega, by omega⟩
    · exact ⟨by omega, by omega, fun _ _ => hlocs, by omega⟩
  | false =>
    have hrange := (validPin_eq_false_iff pin).mp hvalid
    exact ⟨by omega, by omega, by omega, fun _ => locs_of_invalid p pin hvalid⟩

/-- Settles O10: the offsets by range (`offs_of_valid`), and the masks of the offsets 0 to 15 are the sixteen words in order. -/
theorem offsetsAndMasks : Obligations.OffsetsAndMasks := by
  refine ⟨fun pin hvalid => ?offsets, fun off hoff => ⟨?word, mask_toNat (Nat.lt_succ_of_le hoff)⟩⟩
  case offsets =>
    rcases offs_of_valid hvalid with ⟨h1, h2, hi, ho, hd⟩ | ⟨h1, h2, hi, ho, hd⟩ | ⟨h1, h2, hi, ho, hd⟩
    all_goals
      refine ⟨_, _, _, hi, ho, hd, ?_⟩
      omega
  case word =>
    have hmem : mask off ∈ (List.range 16).map mask := List.mem_map_of_mem (List.mem_range.mpr (Nat.lt_succ_of_le hoff))
    exact hmem

/-- Settles O12: setting is putting to 1 and clearing is putting to 0, so each law is one of `forceBit`'s at both levels. -/
theorem bitLaws : Obligations.BitLaws := by
  intro w i j hi hj
  have hi : i < 16 := Nat.lt_succ_of_le hi
  have hj : j < 16 := Nat.lt_succ_of_le hj
  exact ⟨getBit_forceBit_self true w hi, getBit_forceBit_self false w hi,
    fun hne => ⟨getBit_forceBit_of_ne true w hi hne, getBit_forceBit_of_ne false w hi hne⟩,
    forceBit_idem true w hi, forceBit_idem false w hi,
    forceBit_of_getBit (level := true) hi, forceBit_of_getBit (level := false) hi,
    fun hne => ⟨forceBit_comm true true w hi hj hne, forceBit_comm false false w hi hj hne,
      forceBit_comm true false w hi hj hne⟩⟩

end

section
/-! What a step can do to the block: a move of the sequencer in the block's own slot (41_rmw_sequencer.md R76, R77), the taking
of its response, its reset, and nothing in every other slot. -/

namespace Sys2Proof.Machine

variable {s t u : State} {i : Instr} {w : Word} {p : Params} {ph : Phase} {m : BlockAction}

/-! The slot of the block. -/

/-- The phases of a command in progress are all but `IDLE` and `RESP` (10_state.md R15). -/
theorem mem_phases_iff : ph ∈ [Phase.rd1, .wr1, .rd2, .wr2] ↔ ph ≠ .idle ∧ ph ≠ .resp := by
  cases ph <;> simp

/-- All that the block's slot can have to do: it waits, the word on the port is a command or reserved, or `CMD` holds the command
in progress or, where no run comes, none. -/
theorem State.fetch_cases (s : State) :
    (s.phase = .idle ∨ s.phase = .resp) ∧ s.fetch = .wait ∨
      (∃ w i, s.phase = .idle ∧ s.port = some w ∧ decode w = .ok i ∧ s.fetch = .command i) ∨
      (∃ w e, s.phase = .idle ∧ s.port = some w ∧ decode w = .error e ∧ s.fetch = .reserved w) ∨
      (s.phase ≠ .idle ∧ s.phase ≠ .resp ∧
        ((∃ i, decode s.cmd = .ok i ∧ s.fetch = .command i) ∨ ∃ e, decode s.cmd = .error e ∧ s.fetch = .stuck)) := by
  cases hp : s.phase
  case idle =>
    cases hport : s.port with
    | none => simp [State.fetch, hp, hport]
    | some w => cases hw : decode w <;> simp [State.fetch, hp, hport, hw]
  case resp => simp [State.fetch, hp]
  all_goals cases hcmd : decode s.cmd <;> simp [State.fetch, hp, hcmd]

/-- All that a slot of the block can do: nothing, the acceptance of the word on the port, or a step of the command in `CMD`. -/
inductive State.BlockMove (s t : State) : Prop where
  | wait (hphase : s.phase = .idle ∨ s.phase = .resp) (heq : t = s)
  | accept {w : Word} {i : Instr} (hidle : s.phase = .idle) (hport : s.port = some w) (hdecode : decode w = .ok i)
      (heq : t = s.accept w i.pin)
  | reserved {w : Word} {e : DecodeError} (hidle : s.phase = .idle) (hport : s.port = some w) (hdecode : decode w = .error e)
      (heq : t = s.acceptReserved w)
  | action {i : Instr} {m : BlockAction} (hidle : s.phase ≠ .idle) (hresp : s.phase ≠ .resp) (hdecode : decode s.cmd = .ok i)
      (hm : blockAction s.params i s.phase = some m) (heq : t = m.apply s)

theorem blockStep_move (h : blockStep s = .next t) : s.BlockMove t := by
  rcases s.fetch_cases with ⟨hphase, hfetch⟩ | ⟨w, i, hidle, hport, hdecode, hfetch⟩ |
    ⟨w, e, hidle, hport, hdecode, hfetch⟩ | ⟨hidle, hresp, ⟨i, hdecode, hfetch⟩ | ⟨e, -, hfetch⟩⟩ <;>
    simp only [blockStep, hfetch, reduceCtorEq] at h
  · exact .wait hphase (Host.Outcome.next.inj h).symm
  · obtain ⟨m, hm, heq⟩ := exec_next h
    rw [hidle] at hm
    obtain rfl := Option.some.inj hm
    exact .accept hidle hport hdecode (encode_of_decode hdecode ▸ heq)
  · exact .reserved hidle hport hdecode (Host.Outcome.next.inj h).symm
  · obtain ⟨m, hm, heq⟩ := exec_next h
    exact .action hidle hresp hdecode hm heq

/-- In `RESP` the block's slot holds the response (41_rmw_sequencer.md R83). -/
theorem State.BlockMove.eq_of_resp (h : s.BlockMove t) (hresp : s.phase = .resp) : t = s := by
  cases h with
  | wait _ heq => exact heq
  | accept hidle | reserved hidle => simp [hidle] at hresp
  | action _ hne => exact absurd hresp hne

/-! The slots of the others. -/

/-- From `s` to `t` nothing has been done to the block: its registers, its part of the trace and the responses taken are the
same, a command on the port is still there, and a canonical bank is still canonical. -/
structure State.SameBlock (s t : State) : Prop where
  params : t.params = s.params
  phase : t.phase = s.phase
  cmd : t.cmd = s.cmd
  latch : t.latch = s.latch
  rspData : t.rspData = s.rspData
  rspErr : t.rspErr = s.rspErr
  responses : t.responses = s.responses
  trace : blockTrace t.trace = blockTrace s.trace
  bank : s.bank.wf = true → t.bank.wf = true
  port : ∀ w, s.port = some w → t.port = some w

/-- The pads, the lock, and what is still to come are outside the block. -/
theorem State.SameBlock.of_outside (s : State) (x : Pads) (k : LockHolder) (cs : List ConsumerOp) (os : List OtherOp)
    (ws : List WorldOp) (ms : List Mover) :
    s.SameBlock { s with ext := x, lock := k, consumer := cs, other := os, world := ws, schedule := ms } :=
  ⟨rfl, rfl, rfl, rfl, rfl, rfl, rfl, rfl, id, fun _ => id⟩

theorem State.SameBlock.response (h : s.SameBlock t) : t.response = s.response := by
  simp only [State.response, h.rspData, h.rspErr]

theorem otherStep_sameBlock (s : State) : s.SameBlock (otherStep s) := by
  rcases otherStep_cases s with
    heq | ⟨rest, -, -, heq⟩ | ⟨a, rest, -, -, heq⟩ | ⟨a, v, rest, -, -, heq⟩ | ⟨rest, -, heq⟩ <;>
    rw [heq]
  case inr.inr.inl =>
    exact ⟨by simp, by simp, by simp, by simp, by simp, by simp, by simp, by simp [blockTrace], by simp, by simp⟩
  case inr.inr.inr.inl =>
    exact ⟨by simp, by simp, by simp, by simp, by simp, by simp, by simp, by simp [blockTrace], s.busPoke_wf .other a v,
      by simp⟩
  all_goals exact .of_outside s _ _ _ _ _ _

theorem worldStep_sameBlock (s : State) : s.SameBlock (worldStep s) := by
  rw [worldStep_eq]
  exact .of_outside s _ _ _ _ _ _

/-- A slot of `CONSUMER` leaves the block alone, or takes its response. -/
theorem consumerStep_block (s : State) :
    s.SameBlock (consumerStep s) ∨
      s.phase = .resp ∧ ∃ rest, consumerStep s = { s.takeResponse with consumer := rest } := by
  rcases consumerStep_cases s with
    heq | ⟨rest, -, -, heq⟩ | ⟨w, rest, -, hport, heq⟩ | ⟨rest, -, hresp, heq⟩ | ⟨rest, -, heq⟩
  case inr.inr.inr.inl => exact .inr ⟨hresp, rest, heq⟩
  case inr.inr.inl =>
    rw [heq]
    exact .inl ⟨rfl, rfl, rfl, rfl, rfl, rfl, rfl, rfl, id, by simp [hport]⟩
  all_goals
    rw [heq]
    exact .inl (.of_outside s _ _ _ _ _ _)

/-! A step. -/

/-- All that a step from `s` to `t` can do to the block, where `u` is `s` with the slot taken off the schedule. -/
inductive State.StepMove (s u t : State) : Prop where
  | block (hmover : s.nextSlot.1 = .prm) (hmove : u.BlockMove t)
  | around (hmover : s.nextSlot.1 ≠ .prm) (hsame : u.SameBlock t)
  | taken {rest : List ConsumerOp} (hmover : s.nextSlot.1 = .consumer) (hresp : u.phase = .resp)
      (heq : t = { u.takeResponse with consumer := rest })
  | reset (hmover : s.nextSlot.1 = .reset) (heq : t = resetBlock u)

theorem step_move (h : step s = .next t) : s.StepMove s.nextSlot.2 t := by
  rw [step] at h
  cases hm : s.nextSlot.1 <;> rw [hm] at h
  case prm => exact .block hm (blockStep_move h)
  all_goals obtain rfl := Host.Outcome.next.inj h
  case consumer =>
    obtain hsame | ⟨hresp, rest, heq⟩ := consumerStep_block s.nextSlot.2
    · exact .around (by simp [hm]) hsame
    · exact .taken hm hresp heq
  case other => exact .around (by simp [hm]) (otherStep_sameBlock _)
  case world => exact .around (by simp [hm]) (worldStep_sameBlock _)
  case reset => exact .reset hm rfl

/-- Taking a slot off the schedule does nothing to the block. -/
theorem State.nextSlot_sameBlock (s : State) : s.SameBlock s.nextSlot.2 := by
  rw [State.nextSlot_eq]
  exact .of_outside s _ _ _ _ _ _

@[simp] theorem State.nextSlot_phase (s : State) : s.nextSlot.2.phase = s.phase := s.nextSlot_sameBlock.phase
@[simp] theorem State.nextSlot_port (s : State) : s.nextSlot.2.port = s.port := by rw [State.nextSlot_eq]
@[simp] theorem State.nextSlot_responses (s : State) : s.nextSlot.2.responses = s.responses :=
  s.nextSlot_sameBlock.responses
@[simp] theorem State.nextSlot_response (s : State) : s.nextSlot.2.response = s.response := s.nextSlot_sameBlock.response

/-- After an acceptance `PHASE` is `RD1`, or `RESP` where the pin is invalid (41_rmw_sequencer.md R77). -/
theorem State.accept_phase (s : State) (c : Word) (pin : Nat) :
    (s.accept c pin).phase = .rd1 ∨ (s.accept c pin).phase = .resp := by
  cases h : validPin pin with
  | true => exact .inl (by rw [State.accept_valid c h])
  | false => exact .inr (by rw [State.accept_invalid c h])

end Sys2Proof.Machine
end

section

open Sys2Proof Sys2Proof.Machine

/-- Settles O36: of all that a step can do to the block (`step_move`), only an acceptance takes a word off the port. -/
theorem commandWaits : Obligations.CommandWaits := by
  intro s t w hport hstep
  have hport' : s.nextSlot.2.port = some w := s.nextSlot_port.trans hport
  cases step_move hstep with
  | around _ hsame => exact .inl (hsame.port w hport')
  | taken _ _ heq | reset _ heq => exact .inl (heq ▸ hport')
  | block _ hmove =>
    cases hmove with
    | wait _ heq => exact .inl (heq ▸ hport')
    | accept hidle hport'' _ heq =>
      obtain rfl := Option.some.inj (hport''.symm.trans hport')
      refine .inr ⟨s.nextSlot_phase.symm.trans hidle, ?_, ?_, heq ▸ State.accept_phase _ _ _⟩ <;>
        rw [heq, State.accept_eq]
    | reserved hidle hport'' _ heq =>
      obtain rfl := Option.some.inj (hport''.symm.trans hport')
      subst heq
      exact .inr ⟨s.nextSlot_phase.symm.trans hidle, rfl, rfl, .inr rfl⟩
    | action hidle _ _ hm heq =>
      obtain ⟨-, hsame⟩ := BlockAction.apply_cmd_port (blockAction_fits hm) hidle
      exact .inl (heq ▸ hsame.trans hport')

/-- Settles O37: the block holds its response in its own slot, a slot of `CONSUMER` may take it, a reset abandons it, and no
other slot touches the block (`step_move`). -/
theorem responseHeld : Obligations.ResponseHeld := by
  intro s t hresp hstep
  have hresp' : s.nextSlot.2.phase = .resp := s.nextSlot_phase.trans hresp
  cases step_move hstep with
  | block _ hmove =>
    obtain rfl := hmove.eq_of_resp hresp'
    exact .inl ⟨hresp', s.nextSlot_response, s.nextSlot_responses⟩
  | around _ hsame =>
    exact .inl ⟨hsame.phase.trans hresp', hsame.response.trans s.nextSlot_response,
      hsame.responses.trans s.nextSlot_responses⟩
  | taken hmover _ heq =>
    subst heq
    exact .inr (.inl ⟨hmover, rfl, by simp⟩)
  | reset hmover heq =>
    subst heq
    exact .inr (.inr ⟨hmover, rfl, s.nextSlot_responses⟩)

end

section
/-! The invariant of the machine, and what it says of the block's next move (41_rmw_sequencer.md R76, 30_encoding.md R59). -/

namespace Sys2Proof.Machine

variable {s t u : State} {i : Instr} {w : Word} {p : Params} {ph : Phase} {m : BlockAction} {l : BitLoc} {pin : Nat}

/-! Where a transition exists. -/

theorem inLoc_eq_none_iff : inLoc p pin = none ↔ validPin pin = false := by
  cases hvalid : validPin pin with
  | false =>
    obtain ⟨hnone, -, -⟩ := locs_of_invalid p pin hvalid
    simp [hnone]
  | true =>
    rcases locs_of_valid p pin hvalid with ⟨-, -, h, -⟩ | ⟨-, -, h, -⟩ | ⟨-, -, h, -⟩ <;> simp [h]

theorem outLoc_eq_none_iff : outLoc p pin = none ↔ validPin pin = false := by
  cases hvalid : validPin pin with
  | false =>
    obtain ⟨-, hnone, -⟩ := locs_of_invalid p pin hvalid
    simp [hnone]
  | true =>
    obtain ⟨o, -, ho, -⟩ := stored_of_validPin p hvalid
    simp [ho]

theorem dirLoc_eq_none_iff : dirLoc p pin = none ↔ validPin pin = false := by
  cases hvalid : validPin pin with
  | false =>
    obtain ⟨-, -, hnone⟩ := locs_of_invalid p pin hvalid
    simp [hnone]
  | true =>
    obtain ⟨-, d, -, hd, -⟩ := stored_of_validPin p hvalid
    simp [hd]

/-- In mid-command the table has no row exactly for an invalid pin and for a phase that is none of the operation's. -/
theorem blockAction_eq_none_iff (hidle : ph ≠ .idle) (hresp : ph ≠ .resp) :
    blockAction p i ph = none ↔ validPin i.pin = false ∨ phaseOf i ph = false := by
  cases i <;> cases ph <;> simp only [ne_eq, not_true_eq_false] at hidle hresp
  all_goals
    simp [blockAction, phaseOf, Instr.pin, inLoc_eq_none_iff, outLoc_eq_none_iff, dirLoc_eq_none_iff]

/-- A read, or a write that is not the last, leads to another phase of the operation; the one read of a `GETPIN` and the last
write of a `SETPIN` end it. -/
def BlockAction.LeadsOn (i : Instr) : BlockAction → Prop
  | .read _ next | .write _ _ next => phaseOf i next = true
  | .readBit _ => i.pinState = none
  | .writeLast _ _ => i.pinState ≠ none
  | .accept _ _ | .hold => False

theorem blockAction_leadsOn (hidle : ph ≠ .idle) (hresp : ph ≠ .resp) (h : blockAction p i ph = some m) :
    m.LeadsOn i := by
  cases i <;> cases ph <;>
    simp only [blockAction, Option.map_eq_some_iff, reduceCtorEq, ne_eq, not_true_eq_false] at h hidle hresp
  all_goals
    obtain ⟨_, -, rfl⟩ := h
    simp [BlockAction.LeadsOn, phaseOf, Instr.pinState]

/-! The response of a command (30_encoding.md R59). -/

theorem responseFits_reserved {e : DecodeError} (p : Params) (h : decode w = .error e) :
    responseFits p w ⟨p.sentinel, errReserved⟩ = true := by
  simp [responseFits, h]

theorem responseFits_invalidPin (p : Params) (h : decode w = .ok i) (hpin : validPin i.pin = false) :
    responseFits p w ⟨p.sentinel, errInvalidPin⟩ = true := by
  simp [responseFits, h, hpin]

theorem responseFits_getpin (p : Params) (b : Word) (j : Nat) (h : decode w = .ok i) (hpin : validPin i.pin = true)
    (hget : i.pinState = none) : responseFits p w ⟨zext16 (getBit b j), errNone⟩ = true := by
  cases i with
  | getpin pin =>
    rw [zext16_getBit]
    cases b.getLsbD j <;> simp [responseFits, h, hpin]
  | setpinLow | setpinHigh | setpinHiz => cases hget

theorem responseFits_setpin (p : Params) (h : decode w = .ok i) (hpin : validPin i.pin = true) (hset : i.pinState ≠ none) :
    responseFits p w ⟨0x0000#16, errNone⟩ = true := by
  cases i with
  | getpin pin => exact absurd rfl hset
  | setpinLow | setpinHigh | setpinHiz => simp [responseFits, h, hpin]

/-! The invariant. -/

/-- The model's invariant, part by part. -/
structure State.Sound (s : State) : Prop where
  bank : s.bank.wf = true
  err : s.rspErr ≠ 0b11#2
  command : s.phase ≠ .idle → s.phase ≠ .resp →
    ∃ i, decode s.cmd = .ok i ∧ validPin i.pin = true ∧ phaseOf i s.phase = true
  response : s.phase = .resp → responseFits s.params s.cmd s.response = true

theorem State.phaseOk_iff : s.phaseOk = true ↔ (s.phase ≠ .idle → s.phase ≠ .resp →
    ∃ i, decode s.cmd = .ok i ∧ validPin i.pin = true ∧ phaseOf i s.phase = true) := by
  unfold State.phaseOk
  split
  case h_1 hp | h_2 hp => simp [hp]
  all_goals
    next hp => split <;> simp_all

theorem State.responseOk_iff :
    s.responseOk = true ↔ (s.phase = .resp → responseFits s.params s.cmd s.response = true) := by
  unfold State.responseOk
  split <;> simp_all

theorem State.inv_iff : s.inv = true ↔ s.Sound := by
  simp only [State.inv, Bool.and_eq_true, decide_eq_true_eq, State.phaseOk_iff, State.responseOk_iff]
  exact ⟨fun ⟨⟨⟨hbank, herr⟩, hcommand⟩, hresponse⟩ => ⟨hbank, herr, hcommand, hresponse⟩,
    fun ⟨hbank, herr, hcommand, hresponse⟩ => ⟨⟨⟨hbank, herr⟩, hcommand⟩, hresponse⟩⟩

/-- An idle block has no command and no response that could be wrong. -/
theorem State.Sound.of_idle (hbank : s.bank.wf = true) (herr : s.rspErr ≠ 0b11#2) (hidle : s.phase = .idle) : s.Sound where
  bank := hbank
  err := herr
  command hne := absurd hidle hne
  response hresp := by simp [hidle] at hresp

theorem State.Sound.of_command (hbank : s.bank.wf = true) (herr : s.rspErr ≠ 0b11#2) (hdecode : decode s.cmd = .ok i)
    (hpin : validPin i.pin = true) (hphase : phaseOf i s.phase = true) : s.Sound where
  bank := hbank
  err := herr
  command _ _ := ⟨i, hdecode, hpin, hphase⟩
  response hresp := by cases i <;> simp [hresp, phaseOf] at hphase

theorem State.Sound.of_response (hbank : s.bank.wf = true) (herr : s.rspErr ≠ 0b11#2) (hresp : s.phase = .resp)
    (hfits : responseFits s.params s.cmd s.response = true) : s.Sound where
  bank := hbank
  err := herr
  command _ hne := absurd hresp hne
  response _ := hfits

theorem State.SameBlock.sound (h : s.SameBlock t) (hs : s.Sound) : t.Sound where
  bank := h.bank hs.bank
  err := h.rspErr ▸ hs.err
  command := by
    rw [h.phase, h.cmd]
    exact hs.command
  response := by
    rw [h.phase, h.cmd, h.params, h.response]
    exact hs.response

theorem BlockAction.apply_wf (m : BlockAction) (h : s.bank.wf = true) : (m.apply s).bank.wf = true := by
  cases m with
  | accept c pin =>
    rw [apply, State.accept_eq]
    exact h
  | write l level next => exact s.busPoke_wf .prm l.addr _ h
  | writeLast l level => exact s.busPoke_wf .prm l.addr _ h
  | read a next => simpa [apply] using h
  | readBit l => simpa [apply] using h
  | hold => exact h

/-- A step of the command in `CMD` leads to a phase of that command, or to its response. -/
theorem BlockAction.apply_sound (hs : s.Sound) (hidle : s.phase ≠ .idle) (hresp : s.phase ≠ .resp)
    (hdecode : decode s.cmd = .ok i) (hm : blockAction s.params i s.phase = some m) : (m.apply s).Sound := by
  have hbank : (m.apply s).bank.wf = true := m.apply_wf hs.bank
  have hleads : m.LeadsOn i := blockAction_leadsOn hidle hresp hm
  have hpin : validPin i.pin = true := by
    obtain ⟨j, hj, hpin, -⟩ := hs.command hidle hresp
    obtain rfl := Except.ok.inj (hdecode.symm.trans hj)
    exact hpin
  cases m with
  | accept | hold => exact hleads.elim
  | read a next => exact .of_command hbank (by simpa [apply] using hs.err) (by simpa [apply]) hpin hleads
  | write l level next => exact .of_command hbank (by simpa [apply] using hs.err) (by simpa [apply]) hpin hleads
  | readBit l =>
    refine .of_response hbank (by simp [apply, errNone]) rfl ?_
    simpa [apply, State.response] using responseFits_getpin s.params _ l.off hdecode hpin hleads
  | writeLast l level =>
    refine .of_response hbank (by simp [apply, errNone]) rfl ?_
    simpa [apply, State.response] using responseFits_setpin s.params hdecode hpin hleads

theorem State.BlockMove.sound (h : s.BlockMove t) (hs : s.Sound) : t.Sound := by
  cases h with
  | wait _ heq => exact heq ▸ hs
  | @accept w i _ _ hdecode heq =>
    subst heq
    cases hpin : validPin i.pin with
    | true =>
      rw [State.accept_valid w hpin]
      exact .of_command hs.bank hs.err hdecode hpin (by cases i <;> rfl)
    | false =>
      rw [State.accept_invalid w hpin]
      exact .of_response hs.bank (by simp [errInvalidPin]) rfl (responseFits_invalidPin s.params hdecode hpin)
  | reserved _ _ hdecode heq =>
    subst heq
    exact .of_response hs.bank (by simp [State.acceptReserved_eq, errReserved]) rfl (responseFits_reserved s.params hdecode)
  | action hidle hresp hdecode hm heq =>
    subst heq
    exact BlockAction.apply_sound hs hidle hresp hdecode hm

theorem step_sound (hs : s.Sound) (h : step s = .next t) : t.Sound := by
  have hu : s.nextSlot.2.Sound := s.nextSlot_sameBlock.sound hs
  cases step_move h with
  | block _ hmove => exact hmove.sound hu
  | around _ hsame => exact hsame.sound hu
  | taken _ _ heq =>
    subst heq
    exact .of_idle hu.bank hu.err rfl
  | reset _ heq =>
    subst heq
    exact .of_idle hu.bank (by simp [resetBlock, errNone]) rfl

/-! The machine goes on. -/

/-- A sound state's block is never stuck: its command is in a phase that has a row. -/
theorem blockStep_of_sound (hs : s.Sound) : ∃ t, blockStep s = .next t := by
  have hexec (i : Instr) (m : BlockAction) (hm : blockAction s.params i s.phase = some m) : ∃ t, exec i s = .next t :=
    ⟨m.apply s, by rw [exec_eq_outcome, hm, BlockAction.outcome]⟩
  rcases s.fetch_cases with ⟨-, hfetch⟩ | ⟨w, i, hidle, -, -, hfetch⟩ | ⟨w, e, -, -, -, hfetch⟩ |
    ⟨hidle, hresp, hcommand⟩
  · exact ⟨s, by simp only [blockStep, hfetch]⟩
  · simp only [blockStep, hfetch]
    exact hexec i (.accept (encode i) i.pin) (by rw [hidle, blockAction])
  · exact ⟨s.acceptReserved w, by simp only [blockStep, hfetch]⟩
  · obtain ⟨i, hi, hpin, hphase⟩ := hs.command hidle hresp
    obtain ⟨j, hj, hfetch⟩ | ⟨e, he, -⟩ := hcommand
    · obtain rfl := Except.ok.inj (hi.symm.trans hj)
      simp only [blockStep, hfetch]
      cases hm : blockAction s.params i s.phase with
      | some m => exact hexec i m hm
      | none => simp [blockAction_eq_none_iff hidle hresp, hpin, hphase] at hm
    · cases hi.symm.trans he

theorem step_of_sound (hs : s.Sound) : ∃ t, step s = .next t := by
  by_contra hnone
  obtain ⟨t, ht⟩ := blockStep_of_sound (s.nextSlot_sameBlock.sound hs)
  exact step_stops (not_exists.mp hnone) t ht

/-! The way to the response. -/

/-- How many steps of the block are left of a command, at most (41_rmw_sequencer.md R76). -/
def Phase.stepsLeft : Phase → Nat
  | .rd1 => 4
  | .wr1 => 3
  | .rd2 => 2
  | .wr2 => 1
  | .idle | .resp => 0

theorem Phase.stepsLeft_pos (hidle : ph ≠ .idle) (hresp : ph ≠ .resp) : 0 < ph.stepsLeft := by
  cases ph <;> simp_all [Phase.stepsLeft]

/-- A step of a command answers it, or leaves it in progress with fewer steps to go. -/
theorem BlockAction.apply_phase (hidle : s.phase ≠ .idle) (hresp : s.phase ≠ .resp) (hfits : m.fits s.phase) :
    (m.apply s).phase = .resp ∨
      ((m.apply s).phase ≠ .idle ∧ (m.apply s).phase ≠ .resp ∧ (m.apply s).phase.stepsLeft < s.phase.stepsLeft) := by
  cases m with
  | accept c pin => exact absurd hfits hidle
  | hold => exact absurd hfits hresp
  | readBit l => exact .inl rfl
  | writeLast l level => exact .inl rfl
  | read a next =>
    obtain ⟨hp, rfl⟩ | ⟨hp, rfl⟩ := hfits <;> exact .inr (by simp [apply, hp, Phase.stepsLeft])
  | write l level next =>
    obtain ⟨hp, rfl⟩ := hfits
    exact .inr (by simp [apply, hp, Phase.stepsLeft])

theorem blockStep_schedule (h : blockStep s = .next t) : t.schedule = s.schedule := by
  rcases blockStep_next h with ⟨-, rfl⟩ | ⟨i, -, hexec⟩ | ⟨w, -, rfl⟩
  · rfl
  · obtain ⟨m, -, rfl⟩ := exec_next hexec
    obtain ⟨-, -, -, -, -, -, hschedule, -⟩ := m.apply_frame s
    exact hschedule
  · rfl

/-- A step uses up its slot of the schedule and no other. -/
theorem step_schedule (h : step s = .next t) : t.schedule = s.schedule.tail := by
  have htail : s.nextSlot.2.schedule = s.schedule.tail := by
    unfold State.nextSlot
    split
    next hnil => simp [hnil]
    next hcons => simp [hcons]
  rw [← htail]
  rw [step] at h
  cases hm : s.nextSlot.1 <;> rw [hm] at h
  case prm => exact blockStep_schedule h
  all_goals obtain rfl := Host.Outcome.next.inj h
  case consumer =>
    rcases consumerStep_cases s.nextSlot.2 with
      heq | ⟨_, _, _, heq⟩ | ⟨_, _, _, _, heq⟩ | ⟨_, _, _, heq⟩ | ⟨_, _, heq⟩ <;> simp [heq]
  case other =>
    rcases otherStep_cases s.nextSlot.2 with
      heq | ⟨_, _, _, heq⟩ | ⟨_, _, _, _, heq⟩ | ⟨_, _, _, _, _, heq⟩ | ⟨_, _, heq⟩ <;> rw [heq] <;> simp
  case world => rw [worldStep_eq]
  case reset => rfl

theorem State.nextSlot_mover {ms : List Mover} {mover : Mover} (h : s.schedule = mover :: ms) :
    s.nextSlot.1 = mover := by
  simp only [State.nextSlot, h]

/-- A command in progress comes to its response within as many slots of the block as it has steps left, whatever the slots
between them do, but for a reset. -/
theorem run_reaches_resp (hs : s.Sound) (hidle : s.phase ≠ .idle) (hresp : s.phase ≠ .resp) (hreset : .reset ∉ s.schedule)
    (hslots : s.phase.stepsLeft ≤ s.schedule.count .prm) :
    ∃ k t, k ≤ s.schedule.length ∧ run k s = .next t ∧ t.phase = .resp := by
  induction hms : s.schedule generalizing s with
  | nil =>
    have := Phase.stepsLeft_pos hidle hresp
    simp [hms] at hslots
    omega
  | cons mover ms ih =>
    obtain ⟨t, hstep⟩ := step_of_sound hs
    have htail : t.schedule = ms := by rw [step_schedule hstep, hms, List.tail_cons]
    have hmover : s.nextSlot.1 = mover := State.nextSlot_mover hms
    have hreset' : .reset ∉ ms := fun h => hreset (by simp [hms, h])
    rw [hms] at hslots
    have hgoes (hidle : t.phase ≠ .idle) (hresp : t.phase ≠ .resp) (hslots : t.phase.stepsLeft ≤ ms.count .prm) :
        ∃ k x, k ≤ (mover :: ms).length ∧ run k s = .next x ∧ x.phase = .resp := by
      obtain ⟨k, x, hk, hrun, hx⟩ :=
        ih (step_sound hs hstep) hidle hresp (htail ▸ hreset') (htail ▸ hslots) htail
      exact ⟨k + 1, x, Nat.succ_le_succ hk, (run_succ_of_step hstep).trans hrun, hx⟩
    cases step_move hstep with
    | block hprm hmove =>
      obtain rfl := hmover.symm.trans hprm
      rw [List.count_cons_self] at hslots
      cases hmove with
      | action _ _ _ hm heq =>
        have hnext := BlockAction.apply_phase (by simpa) (by simpa) (blockAction_fits hm)
        rw [← heq, State.nextSlot_phase] at hnext
        obtain hdone | ⟨hidle', hresp', hless⟩ := hnext
        · exact ⟨1, t, by simp, run_succ_of_step hstep, hdone⟩
        · exact hgoes hidle' hresp' (by omega)
      | wait hphase =>
        rw [State.nextSlot_phase] at hphase
        exact absurd hphase (not_or_intro hidle hresp)
      | accept hidle' | reserved hidle' => exact absurd (s.nextSlot_phase.symm.trans hidle') hidle
    | around hne hsame =>
      have hphase : t.phase = s.phase := hsame.phase.trans s.nextSlot_phase
      rw [List.count_cons_of_ne (hmover ▸ hne)] at hslots
      exact hgoes (hphase ▸ hidle) (hphase ▸ hresp) (hphase ▸ hslots)
    | taken _ hresp' => exact absurd (s.nextSlot_phase.symm.trans hresp') hresp
    | reset hmover' => exact absurd (hmover.symm.trans hmover') (fun h => hreset (by simp [hms, h]))

end Sys2Proof.Machine
end

section

open Sys2Proof Sys2Proof.Machine

/-- Settles O44: `step_sound`, which follows the block's move through all that a step can do to the block. -/
theorem stepKeepsInv : Obligations.StepKeepsInv := by
  intro s t hs hstep
  exact State.inv_iff.mpr (step_sound (State.inv_iff.mp hs) hstep)

/-- Settles O45: a sound state's command is in a phase that has a row (`blockStep_of_sound`). -/
theorem invNeverStops : Obligations.InvNeverStops := by
  intro s hs
  exact step_of_sound (State.inv_iff.mp hs)

/-- Settles O46: a phase has at most four steps left, and each slot of the block takes one off (`run_reaches_resp`). -/
theorem reachesResponse : Obligations.ReachesResponse := by
  intro s hs hphase hreset hslots
  obtain ⟨hidle, hresp⟩ := mem_phases_iff.mp hphase
  have hfour : s.phase.stepsLeft ≤ 4 := by cases s.phase <;> simp [Phase.stepsLeft]
  exact run_reaches_resp (State.inv_iff.mp hs) hidle hresp hreset (hfour.trans hslots)

/-- Settles O22: the meaning is the row of the table (`exec_eq_outcome`), and `blockAction_eq_none_iff` says where there is
none. -/
theorem stopsOutsideItsPhases : Obligations.StopsOutsideItsPhases := by
  intro i s hphase
  obtain ⟨hidle, hresp⟩ := mem_phases_iff.mp hphase
  rw [exec_eq_outcome, ← blockAction_eq_none_iff hidle hresp]
  cases blockAction s.params i s.phase <;> simp [BlockAction.outcome]

end

section
/-! Never a blind write: what the read of a read-modify-write leaves in `LATCH` and in the trace (41_rmw_sequencer.md R75). -/

namespace Sys2Proof.Machine

variable {s t : State} {i : Instr} {p : Params} {ph : Phase} {l : BitLoc}

/-- The model's predicate: the write that comes next is to the address that was read last, and `LATCH` is what was read. -/
theorem State.latchOk_iff : s.latchOk = true ↔
    ∀ a, s.writeAddr = some a → (blockTrace s.trace).getLast? = some (.peek a s.latch) := by
  unfold State.latchOk
  split
  next hnone => simp [hnone]
  next a ha => simp [ha]

theorem phase_of_writeLoc (h : writeLoc p i ph = some l) : ph = .wr1 ∨ ph = .wr2 := by
  unfold writeLoc at h
  split at h
  next => exact .inl rfl
  next => exact .inl rfl
  next => exact .inl rfl
  next => exact .inr rfl
  next => exact .inr rfl
  next => cases h

/-- A write comes next in `WR1` and `WR2` alone. -/
theorem State.writeAddr_eq_none (h1 : s.phase ≠ .wr1) (h2 : s.phase ≠ .wr2) : s.writeAddr = none := by
  unfold State.writeAddr
  split
  next i _ =>
    cases hl : writeLoc s.params i s.phase with
    | none => rfl
    | some l => exact absurd (phase_of_writeLoc hl) (not_or_intro h1 h2)
  next => rfl

theorem State.latchOk_of_no_write (h1 : s.phase ≠ .wr1) (h2 : s.phase ≠ .wr2) : s.latchOk = true := by
  rw [State.latchOk_iff, State.writeAddr_eq_none h1 h2]
  simp

theorem State.SameBlock.latchOk (h : s.SameBlock t) (hs : s.latchOk = true) : t.latchOk = true := by
  have haddr : t.writeAddr = s.writeAddr := by simp only [State.writeAddr, h.cmd, h.phase, h.params]
  rw [State.latchOk_iff, haddr, h.trace, h.latch]
  exact State.latchOk_iff.mp hs

/-- After the read of a read-modify-write the write that comes next is to the register read (41_rmw_sequencer.md R78). -/
theorem writeLoc_of_blockAction_read {a : Addr} {next : Phase} (h : blockAction p i ph = some (.read a next)) :
    (writeLoc p i next).map BitLoc.addr = some a := by
  cases i <;> cases ph <;>
    simp only [blockAction, Option.map_eq_some_iff, Option.some.injEq, BlockAction.read.injEq, reduceCtorEq, and_false,
      exists_false] at h
  all_goals
    obtain ⟨l, hl, rfl, rfl⟩ := h
    simp [writeLoc, hl]

theorem BlockAction.apply_latchOk {m : BlockAction} (hidle : s.phase ≠ .idle) (hresp : s.phase ≠ .resp)
    (hdecode : decode s.cmd = .ok i) (hm : blockAction s.params i s.phase = some m) : (m.apply s).latchOk = true := by
  have hfits := blockAction_fits hm
  cases m with
  | accept c pin => exact absurd hfits hidle
  | hold => exact absurd hfits hresp
  | readBit l => exact State.latchOk_of_no_write (by simp [apply]) (by simp [apply])
  | writeLast l level => exact State.latchOk_of_no_write (by simp [apply]) (by simp [apply])
  | write l level next =>
    obtain ⟨-, rfl⟩ := hfits
    exact State.latchOk_of_no_write (by simp [apply]) (by simp [apply])
  | read a next =>
    rw [State.latchOk_iff]
    have haddr : State.writeAddr ((s.readLatch a).goto next) = some a := by
      simp [State.writeAddr, hdecode, writeLoc_of_blockAction_read hm]
    intro b hb
    obtain rfl := Option.some.inj (haddr.symm.trans hb)
    simp [apply, blockTrace_append_prm]

theorem State.BlockMove.latchOk (h : s.BlockMove t) (hs : s.latchOk = true) : t.latchOk = true := by
  cases h with
  | wait _ heq => exact heq ▸ hs
  | @accept w i _ _ _ heq =>
    have hphase : t.phase = .rd1 ∨ t.phase = .resp := heq ▸ State.accept_phase s w i.pin
    exact State.latchOk_of_no_write (by grind) (by grind)
  | reserved _ _ _ heq =>
    subst heq
    exact State.latchOk_of_no_write (by simp [State.acceptReserved_eq]) (by simp [State.acceptReserved_eq])
  | action hidle hresp hdecode hm heq =>
    subst heq
    exact BlockAction.apply_latchOk hidle hresp hdecode hm

theorem step_latchOk (hs : s.latchOk = true) (h : step s = .next t) : t.latchOk = true := by
  have hu : s.nextSlot.2.latchOk = true := s.nextSlot_sameBlock.latchOk hs
  cases step_move h with
  | block _ hmove => exact hmove.latchOk hu
  | around _ hsame => exact hsame.latchOk hu
  | taken _ _ heq =>
    subst heq
    exact State.latchOk_of_no_write (by simp) (by simp)
  | reset _ heq =>
    subst heq
    exact State.latchOk_of_no_write (by simp [resetBlock]) (by simp [resetBlock])

/-- A phase that writes, with any device behind the bus (41_rmw_sequencer.md R80, R82, R85). -/
theorem exec_write_of_writeLoc (h : writeLoc s.params i s.phase = some l) :
    ∃ t, exec i s = .next t ∧ t.trace = s.trace ++ [⟨.prm, .poke l.addr (s.writeWord i l)⟩] ∧
      t.bank = (s.busPoke .prm l.addr (s.writeWord i l)).bank := by
  rcases blockAction_of_writeLoc h with hm | hm <;>
    exact ⟨_, by rw [exec_eq_outcome, hm]; rfl, by simp [BlockAction.apply, State.writeWord],
      by simp [BlockAction.apply, State.writeWord]⟩

/-- What a register stores after a write of it: the word, but for `A[15:12]`, which stay (10_state.md R31). -/
theorem State.bankRead_refPoke_self_getLsbD (v : Word) (j : Nat) (hl : l.Stored s.params) :
    ((s.refPoke l.addr v).bankRead l.addr).getLsbD j =
      if l.addr = s.params.addrA ∧ 12 ≤ j then (s.bankRead l.addr).getLsbD j else v.getLsbD j := by
  by_cases hA : l.addr = s.params.addrA ∧ 12 ≤ j
  case neg =>
    rw [if_neg hA, State.bankRead_refPoke_stored v hl fun haddr => Nat.lt_of_not_le fun hj => hA ⟨haddr, hj⟩]
  case pos =>
    obtain ⟨haddr, hj⟩ := hA
    rw [if_pos ⟨haddr, hj⟩, State.bankRead_refPoke, if_pos rfl, if_pos haddr, BitVec.getLsbD_append, if_neg (by omega),
      BitVec.getLsbD_extractLsb', Nat.add_sub_cancel' hj]
    by_cases hj' : j < 16
    · simp [show j - 12 < 4 by omega]
    · simp [BitVec.getLsbD_of_ge _ _ (Nat.le_of_not_lt hj')]

/-- An idle block's slot with a command on the port, and a busy one's with that command in `CMD`, are a step of the command. -/
theorem State.fetch_of_decode {w : Word} (hdecode : decode w = .ok i)
    (h : s.phase = .idle ∧ s.port = some w ∨ s.phase ∈ [.rd1, .wr1, .rd2, .wr2] ∧ s.cmd = w) : s.fetch = .command i := by
  obtain rfl := encode_of_decode hdecode
  obtain ⟨hidle, hport⟩ | ⟨hphase, hcmd⟩ := h
  · exact State.fetch_of_idle hidle hport (pin_le_of_decode hdecode)
  · obtain ⟨hidle, hresp⟩ := mem_phases_iff.mp hphase
    exact State.fetch_of_busy hidle hresp hcmd (pin_le_of_decode hdecode)

end Sys2Proof.Machine
end

section

open Sys2Proof Sys2Proof.Machine

/-- Settles O48: `step_latchOk`. Only the read of a read-modify-write leads to a phase that writes, and the write is to the
register it read (`writeLoc_of_blockAction_read`). -/
theorem noBlindWrite : Obligations.NoBlindWrite := by
  intro s t hs hstep
  exact step_latchOk hs hstep

/-- Settles O20: a phase that writes issues the write of `LATCH` with one bit forced (`exec_write_of_writeLoc`), and the register
is one that stores what is written. -/
theorem writtenWordIsLatch : Obligations.WrittenWordIsLatch := by
  intro i s l hloc
  have hstored : l.Stored s.params := stored_of_writeLoc hloc
  obtain ⟨t, hexec, htrace, hbank⟩ := exec_write_of_writeLoc hloc
  refine ⟨t, s.writeWord i l, hexec, htrace, fun j => ?word, fun hdevice j => ?stored⟩
  case word => exact forceBit_getLsbD _ _ j hstored.off_lt
  case stored =>
    have hregister : t.bankRead l.addr = (s.refPoke l.addr (s.writeWord i l)).bankRead l.addr := by
      rw [State.bankRead, hbank, State.busPoke_reference _ _ _ _ hdevice]
      rfl
    rw [hregister, State.bankRead_refPoke_self_getLsbD _ j hstored]

/-- Settles O13: in `IDLE` the row of every operation is its acceptance, which a valid pin takes to `RD1`. -/
theorem acceptsValidCommand : Obligations.AcceptsValidCommand := by
  intro i s hidle hvalid
  rw [exec_eq_outcome, hidle, blockAction, BlockAction.outcome, BlockAction.apply, State.accept_valid _ hvalid]

/-- Settles O40: the block's slot has the decoded command to do (`State.fetch_of_decode`), whether the slot is the default one
or the next on the schedule. -/
theorem stepRunsDecodedInstruction : Obligations.StepRunsDecodedInstruction := by
  intro s w i hdecode h
  have hfetch : s.fetch = .command i := State.fetch_of_decode hdecode h
  refine ⟨fun hnone => step_eq_exec hnone hfetch, fun rest hschedule => ?_⟩
  have hfetch' : State.fetch { s with schedule := rest } = .command i := hfetch
  rw [step_of_schedule_cons hschedule, slotStep, blockStep, hfetch']

end

section
/-! A command with nobody between its steps, behind any device (41_rmw_sequencer.md R88), and the line of the pin it drives
(R87). -/

namespace Sys2Proof.Machine

variable {s t : State} {p : Params} {pin : Nat} {l o d : BitLoc} {level : Bool}

/-! The rows of 41_rmw_sequencer.md R88, as the sequencer's actions and as the big-step form gives them. -/

/-- An operation reads a pin, releases it, or drives it to a level. -/
theorem instr_cases (i : Instr) :
    (∃ pin, i = .getpin pin) ∨ (∃ pin, i = .setpinHiz pin) ∨ ∃ level pin, i = drive level pin := by
  cases i with
  | getpin pin => exact .inl ⟨pin, rfl⟩
  | setpinHiz pin => exact .inr (.inl ⟨pin, rfl⟩)
  | setpinLow pin => exact .inr (.inr ⟨false, pin, rfl⟩)
  | setpinHigh pin => exact .inr (.inr ⟨true, pin, rfl⟩)

theorem exists_inLoc (p : Params) (h : validPin pin = true) : ∃ l, inLoc p pin = some l :=
  Option.ne_none_iff_exists'.mp fun hnone => by simp [inLoc_eq_none_iff.mp hnone] at h

theorem drive_false (pin : Nat) : drive false pin = .setpinLow pin := rfl
theorem drive_true (pin : Nat) : drive true pin = .setpinHigh pin := rfl

@[simp] theorem blockSteps_drive (level : Bool) (pin : Nat) : blockSteps (drive level pin) = 5 := by
  cases level <;> rfl

theorem blockAction_getpin (hl : inLoc p pin = some l) : blockAction p (.getpin pin) .rd1 = some (.readBit l) := by
  simp [blockAction, hl]

theorem blockAction_hiz (hd : dirLoc p pin = some d) :
    blockAction p (.setpinHiz pin) .rd1 = some (.read d.addr .wr1) ∧
      blockAction p (.setpinHiz pin) .wr1 = some (.writeLast d false) := by
  simp [blockAction, hd]

/-- The two transactions of a read-modify-write that reads `w`. -/
def rmwOps (l : BitLoc) (level : Bool) (w : Word) : List BusOp := [.peek l.addr w, .poke l.addr (forceBit level w l.off)]

theorem bigStep_getpin (w1 w2 : Word) (hl : inLoc p pin = some l) :
    bigStep p (.getpin pin) w1 w2 = ([.peek l.addr w1], ⟨zext16 (getBit w1 l.off), errNone⟩) := by
  simp only [bigStep, hl]

theorem bigStep_hiz (w1 w2 : Word) (hd : dirLoc p pin = some d) :
    bigStep p (.setpinHiz pin) w1 w2 = (rmwOps d false w1, ⟨0x0000#16, errNone⟩) := by
  simp only [bigStep, hd]
  rfl

theorem bigStep_drive (w1 w2 : Word) (ho : outLoc p pin = some o) (hd : dirLoc p pin = some d) :
    bigStep p (drive level pin) w1 w2 = (rmwOps o level w1 ++ rmwOps d true w2, ⟨0x0000#16, errNone⟩) := by
  cases level with
  | false =>
    simp only [drive_false, bigStep, ho, hd]
    rfl
  | true =>
    simp only [drive_true, bigStep, ho, hd]
    rfl

/-- From `s` to `t` the block has gone through the row of a command whose reads returned `w1` and `w2`: its transactions in order
and no other, and its response. -/
structure State.RanRow (s t : State) (i : Instr) (w1 w2 : Word) : Prop where
  phase : t.phase = .resp
  trace : t.trace = s.trace ++ (bigStep s.params i w1 w2).1.map (⟨.prm, ·⟩)
  response : t.response = (bigStep s.params i w1 w2).2

/-- The step of a command that reads for a read-modify-write. -/
theorem run_read (n : Nat) {i : Instr} {a : Addr} {next : Phase} (hschedule : s.schedule = []) (hcmd : s.cmd = encode i)
    (hpin : i.pin ≤ 255) (hread : blockAction s.params i s.phase = some (.read a next)) :
    run (n + 1) s = run n ((s.readLatch a).goto next) := by
  have hfits : s.phase = .rd1 ∧ next = .wr1 ∨ s.phase = .rd2 ∧ next = .wr2 := blockAction_fits hread
  exact run_action n hschedule hcmd hpin (by grind) (by grind) hread

/-! A device that answers with given words. -/

/-- The state after a read-modify-write, up to the phase and the response that follow it. -/
def State.readThenWrite (s : State) (l : BitLoc) (level : Bool) (ph : Phase) : State :=
  ((s.readLatch l.addr).goto ph).busPoke .prm l.addr (forceBit level ((s.readLatch l.addr).goto ph).latch l.off)

@[simp] theorem State.readThenWrite_params (ph : Phase) : (s.readThenWrite l level ph).params = s.params := by
  simp [State.readThenWrite]
@[simp] theorem State.readThenWrite_cmd (ph : Phase) : (s.readThenWrite l level ph).cmd = s.cmd := by
  simp [State.readThenWrite]
@[simp] theorem State.readThenWrite_schedule (ph : Phase) : (s.readThenWrite l level ph).schedule = s.schedule := by
  simp [State.readThenWrite]

theorem State.readThenWrite_device {w : Word} {ws : List Word} (ph : Phase) (h : s.device = .arbitrary (w :: ws)) :
    (s.readThenWrite l level ph).device = .arbitrary ws := by
  simp [State.readThenWrite, State.answer_arbitrary s _ w ws h]

theorem State.readThenWrite_trace {w : Word} {ws : List Word} (ph : Phase) (h : s.device = .arbitrary (w :: ws)) :
    (s.readThenWrite l level ph).trace = s.trace ++ (rmwOps l level w).map (⟨.prm, ·⟩) := by
  simp [State.readThenWrite, rmwOps, State.answer_arbitrary s _ w ws h]

/-- A block with a command in `CMD` that is in its first phase, nothing scheduled, the device's answers given. -/
structure State.Accepted (s : State) (i : Instr) (answers : List Word) : Prop where
  schedule : s.schedule = []
  cmd : s.cmd = encode i
  phase : s.phase = .rd1
  device : s.device = .arbitrary answers

theorem run_getpin_answered {w1 : Word} {ws : List Word} (w2 : Word) (hs : s.Accepted (.getpin pin) (w1 :: ws))
    (hpin : pin ≤ 255) (hvalid : validPin pin = true) : ∃ t, run 1 s = .next t ∧ s.RanRow t (.getpin pin) w1 w2 := by
  obtain ⟨l, hl⟩ := exists_inLoc s.params hvalid
  have hrow : blockAction s.params (.getpin pin) s.phase = some (.readBit l) := hs.phase ▸ blockAction_getpin hl
  have hanswer := State.answer_arbitrary s l.addr w1 ws hs.device
  refine ⟨(BlockAction.readBit l).apply s, ?run, rfl, ?trace, ?response⟩
  case run => exact run_action 0 hs.schedule hs.cmd hpin (by simp [hs.phase]) (by simp [hs.phase]) hrow
  case trace => simp [BlockAction.apply, bigStep_getpin w1 w2 hl, hanswer]
  case response => simp [BlockAction.apply, State.response, bigStep_getpin w1 w2 hl, hanswer]

theorem run_hiz_answered {w1 : Word} {ws : List Word} (w2 : Word) (hs : s.Accepted (.setpinHiz pin) (w1 :: ws))
    (hpin : pin ≤ 255) (hvalid : validPin pin = true) : ∃ t, run 2 s = .next t ∧ s.RanRow t (.setpinHiz pin) w1 w2 := by
  obtain ⟨-, d, -, hd, -⟩ := stored_of_validPin s.params hvalid
  obtain ⟨hrd1, hwr1⟩ := blockAction_hiz hd
  refine ⟨(s.readThenWrite d false .wr1).respond 0x0000#16 errNone, ?run, rfl, ?trace, ?response⟩
  case run => exact run_read_then 0 hs.schedule hs.cmd hpin (hs.phase ▸ hrd1) hwr1
  case trace => rw [bigStep_hiz w1 w2 hd, State.respond_trace, State.readThenWrite_trace .wr1 hs.device]
  case response => rw [bigStep_hiz w1 w2 hd, State.response, State.respond_rspData, State.respond_rspErr]

theorem run_drive_answered {w1 w2 : Word} {ws : List Word} (hs : s.Accepted (drive level pin) (w1 :: w2 :: ws))
    (hpin : pin ≤ 255) (hvalid : validPin pin = true) : ∃ t, run 4 s = .next t ∧ s.RanRow t (drive level pin) w1 w2 := by
  obtain ⟨o, d, ho, hd, -⟩ := stored_of_validPin s.params hvalid
  obtain ⟨hrd1, hwr1, hrd2, hwr2⟩ := blockAction_drive level ho hd
  have hpin' : (drive level pin).pin ≤ 255 := by rwa [drive_pin]
  let u : State := (s.readThenWrite o level .wr1).goto .rd2
  have hparams : u.params = s.params := State.readThenWrite_params .wr1
  have hdevice : u.device = .arbitrary (w2 :: ws) := State.readThenWrite_device .wr1 hs.device
  have hfirst : u.trace = s.trace ++ (rmwOps o level w1).map (⟨.prm, ·⟩) := State.readThenWrite_trace .wr1 hs.device
  refine ⟨(u.readThenWrite d true .wr2).respond 0x0000#16 errNone, ?run, rfl, ?trace, ?response⟩
  case run =>
    calc run 4 s = run 2 u := run_read_then 2 hs.schedule hs.cmd hpin' (hs.phase ▸ hrd1) hwr1
      _ = .next ((u.readThenWrite d true .wr2).respond 0x0000#16 errNone) :=
        run_read_then 0 (by simp [u, hs.schedule]) (by simp [u, hs.cmd]) hpin' (hparams ▸ hrd2) (hparams ▸ hwr2)
  case trace =>
    rw [bigStep_drive w1 w2 ho hd, State.respond_trace, State.readThenWrite_trace .wr2 hdevice, hfirst, List.map_append,
      List.append_assoc]
  case response => rw [bigStep_drive w1 w2 ho hd, State.response, State.respond_rspData, State.respond_rspErr]

/-! The pin's line. -/

/-- Neither a read nor a change of phase changes a stored bit. -/
theorem State.storedBit_readLatch_goto (a : Addr) (ph : Phase) (q : BitLoc) :
    State.storedBit ((s.readLatch a).goto ph) q = s.storedBit q := by
  simp [State.storedBit, State.bankRead]

/-- The pin does not drive another level than `level`, and its line is what the outside drives or that level. -/
def State.DrivesOnly (s : State) (pin : Nat) (level ext : Bool) : Prop :=
  (s.dirBit pin = true → s.outBit pin = level) ∧ (s.line pin = ext ∨ s.line pin = level)

theorem State.drivesOnly_of_input (hparams : t.params = s.params) (hext : t.ext = s.ext) (hd : dirLoc s.params pin = some d)
    (hbit : t.storedBit d = false) : t.DrivesOnly pin level (s.extBit pin) := by
  have hdir : t.dirBit pin = false := by simp [State.dirBit, hparams, hd, hbit]
  exact ⟨by simp [hdir], .inl (by simp [State.line, hdir, State.extBit, hext])⟩

theorem State.drivesOnly_of_output {ext : Bool} (ho : outLoc s.params pin = some o) (hd : dirLoc s.params pin = some d)
    (hdir : s.storedBit d = true) (hout : s.storedBit o = level) : s.DrivesOnly pin level ext :=
  ⟨fun _ => by simp [State.outBit, ho, hout], .inr (by rw [State.line_of_locs s ho hd, hdir, if_pos rfl, hout])⟩

end Sys2Proof.Machine
end

section

open Sys2Proof Sys2Proof.Machine

/-- Settles O24: after the acceptance each kind of operation goes through its row of actions, every read taking the next answer of
the device. -/
theorem commandTraceForEveryAnswer : Obligations.CommandTraceForEveryAnswer := by
  intro i s w1 w2 ws hwf hvalid hschedule hidle hport hdevice
  have hpin : i.pin ≤ 255 := of_decide_eq_true hwf
  let accepted : State := (s.loadCommand (encode i)).goto .rd1
  have haccepted : accepted.Accepted i (w1 :: w2 :: ws) := ⟨hschedule, rfl, rfl, hdevice⟩
  have hrun (n : Nat) : run (n + 1) s = run n accepted := run_accept n hschedule hidle hport hpin hvalid
  suffices h : ∃ t, run (blockSteps i) s = .next t ∧ accepted.RanRow t i w1 w2 by
    obtain ⟨t, ht, hphase, htrace, hresponse⟩ := h
    exact ⟨t, ht, hphase, htrace, hresponse⟩
  obtain ⟨pin, rfl⟩ | ⟨pin, rfl⟩ | ⟨level, pin, rfl⟩ := instr_cases i
  case inl =>
    obtain ⟨t, ht, hrow⟩ := run_getpin_answered w2 haccepted hpin hvalid
    exact ⟨t, (hrun 1).trans ht, hrow⟩
  case inr.inl =>
    obtain ⟨t, ht, hrow⟩ := run_hiz_answered w2 haccepted hpin hvalid
    exact ⟨t, (hrun 2).trans ht, hrow⟩
  case inr.inr =>
    rw [drive_pin] at hpin hvalid
    obtain ⟨t, ht, hrow⟩ := run_drive_answered haccepted hpin hvalid
    rw [blockSteps_drive]
    exact ⟨t, (hrun 4).trans ht, hrow⟩

/-- Settles O30: until the last step the direction bit is 0 as before, and the last step sets it when the output bit is at the
level already. -/
theorem neverDrivesStaleLevel : Obligations.NeverDrivesStaleLevel := by
  intro level pin k s hpin hvalid hschedule hidle hport hdevice hinput hk
  obtain ⟨o, d, ho, hd, hostored, hdstored, hne⟩ := stored_of_validPin s.params hvalid
  obtain ⟨hrd1, hwr1, hrd2, hwr2⟩ := blockAction_drive level ho hd
  have hpin' : (drive level pin).pin ≤ 255 := by rwa [drive_pin]
  have hvalid' : validPin (drive level pin).pin = true := by rwa [drive_pin]
  have hdir : s.storedBit d = false := by simpa [State.dirBit, hd] using hinput
  let accepted : State := (s.loadCommand (encode (drive level pin))).goto .rd1
  let written : State := accepted.afterRmw o level .rd2
  have hwritten : written.storedBit d = false :=
    (State.storedBit_afterRmw (s := accepted) level .rd2 hostored d).trans ((if_neg hne.symm).trans hdir)
  have haccept (n : Nat) : run (n + 1) s = run n accepted := run_accept n hschedule hidle hport hpin' hvalid'
  have hwrite (n : Nat) : run (n + 2) accepted = run n written :=
    run_write n hschedule rfl hpin' hdevice hrd1 hwr1
  suffices h : ∃ t, run k s = .next t ∧ t.DrivesOnly pin level (s.extBit pin) from h
  match k, hk with
  | 0, _ => exact ⟨s, rfl, State.drivesOnly_of_input rfl rfl hd hdir⟩
  | 1, _ => exact ⟨accepted, haccept 0, State.drivesOnly_of_input rfl rfl hd hdir⟩
  | 2, _ =>
    have hread : run 1 accepted = .next ((accepted.readLatch o.addr).goto .wr1) :=
      run_read (s := accepted) 0 hschedule rfl hpin' hrd1
    exact ⟨_, (haccept 1).trans hread, State.drivesOnly_of_input (by simp [accepted]) (by simp [accepted]) hd
      ((State.storedBit_readLatch_goto o.addr .wr1 d).trans hdir)⟩
  | 3, _ => exact ⟨written, (haccept 2).trans (hwrite 0), State.drivesOnly_of_input rfl rfl hd hwritten⟩
  | 4, _ =>
    have hread : run 1 written = .next ((written.readLatch d.addr).goto .wr2) :=
      run_read (s := written) 0 hschedule rfl hpin' hrd2
    exact ⟨_, (haccept 3).trans ((hwrite 1).trans hread),
      State.drivesOnly_of_input (by simp [written, accepted, State.afterRmw]) (by simp [written, accepted, State.afterRmw]) hd
        ((State.storedBit_readLatch_goto d.addr .wr2 d).trans hwritten)⟩
  | 5, _ =>
    have hstored := State.storedBit_afterDrive level pin hostored hdstored
    exact ⟨s.afterDrive level pin o d, run_drive 0 hpin hvalid hschedule hidle hport hdevice ho hd,
      State.drivesOnly_of_output ho hd ((hstored d).trans (if_pos rfl))
        ((hstored o).trans (by rw [if_neg hne, if_pos rfl]))⟩

end

section
/-! A command under the lock of `CONSUMER`, with slots of `OTHER` and `WORLD` between its steps (20_memory.md R46,
41_rmw_sequencer.md R84). Those move the pads and use up their lists, and nothing more. -/

namespace Sys2Proof.Machine

variable {s t u v : State} {i : Instr} {m : BlockAction} {pin n : Nat} {l o d : BitLoc} {level : Bool}

/-! The bus word of a read-modify-write with the pads moved between its halves. -/

/-- A write of the reference environment looks at the stored bits of the word alone (10_state.md R31). -/
theorem State.refPoke_congr_word {a : Addr} {x y : Word}
    (h : ∀ j, (a = s.params.addrA → j < 12) → x.getLsbD j = y.getLsbD j) : s.refPoke a x = s.refPoke a y := by
  unfold State.refPoke
  split
  next hA =>
    have hlow : x.extractLsb' 0 12 = y.extractLsb' 0 12 := by
      refine BitVec.eq_of_getLsbD_eq fun j hj => ?_
      simp only [BitVec.getLsbD_extractLsb', hj, decide_true, Bool.true_and, Nat.zero_add]
      exact h j fun _ => hj
    rw [hlow]
  next hA => rw [BitVec.eq_of_getLsbD_eq fun j _ => h j fun hj => absurd hj hA]

/-- The stored bits of a register do not follow the pads (10_state.md R30). -/
theorem State.refPeek_stored_congr {j : Nat} (hl : l.Stored s.params) (hparams : t.params = s.params) (hbank : t.bank = s.bank)
    (hj : l.addr = s.params.addrA → j < 12) : (t.refPeek l.addr).getLsbD j = (s.refPeek l.addr).getLsbD j := by
  have hread (a : Addr) : t.bankRead a = s.bankRead a := by simp only [State.bankRead, hbank]
  by_cases hA : l.addr = s.params.addrA
  · rw [hA, State.refPeek_addrA_stored s (hj hA), ← hparams, State.refPeek_addrA_stored t (hj hA), hread]
  · have hmem : l.addr ∉ [s.params.addrA, s.params.addrB, s.params.addrE] := by
      simp [hA, hl.addr_ne_addrB, hl.addr_ne_addrE]
    rw [State.refPeek_stored s hmem, State.refPeek_stored t (hparams ▸ hmem), hread]

/-- What a read-modify-write does to the bank depends on the parameters and the bank alone, also where its two halves see other
pads. -/
theorem State.rmw_bank_congr (hl : l.Stored s.params) (hu : u.params = s.params) (hubank : u.bank = s.bank)
    (hv : v.params = s.params) (hvbank : v.bank = s.bank) :
    (v.refPoke l.addr (forceBit level (u.refPeek l.addr) l.off)).bank =
      (s.rmw l.addr (forceBit level · l.off)).bank := by
  rw [State.refPoke_bank_congr hv hvbank, State.rmw]
  refine congrArg State.bank (State.refPoke_congr_word fun j hj => ?_)
  rw [forceBit_getLsbD _ _ _ hl.off_lt, forceBit_getLsbD _ _ _ hl.off_lt, State.refPeek_stored_congr hl hu hubank hj]

/-- The same where `t` holds what `s` holds after a read-modify-write before. -/
theorem State.rmw_bank_congr_of_rmw {a : Addr} {f : Word → Word} (hl : l.Stored s.params) (hparams : t.params = s.params)
    (hbank : t.bank = (s.rmw a f).bank) :
    (t.rmw l.addr (forceBit level · l.off)).bank = ((s.rmw a f).rmw l.addr (forceBit level · l.off)).bank := by
  have hx : (s.rmw a f).params = s.params := s.refPoke_params _ _
  exact State.rmw_bank_congr (s := s.rmw a f) (hx ▸ hl) (hparams.trans hx.symm) hbank (hparams.trans hx.symm) hbank

/-- What a read returns depends on the parameters, the bank and the pads alone (10_state.md R30). -/
theorem State.refPeek_congr (a : Addr) (hparams : t.params = s.params) (hbank : t.bank = s.bank) (hext : t.ext = s.ext) :
    t.refPeek a = s.refPeek a := by
  simp only [State.refPeek, State.linesA, State.linesB, State.linesE, State.bankRead, hparams, hbank, hext]

/-! The slots between. -/

/-- `t` is `s` with other pads, and with `OTHER` and `WORLD` further on. -/
structure State.Alongside (s t : State) : Prop where
  eq : t = { s with ext := t.ext, other := t.other, world := t.world, schedule := t.schedule }
  pads : s.world = [] → t.ext = s.ext ∧ t.world = []

theorem State.Alongside.refl (s : State) : s.Alongside s := ⟨rfl, fun h => ⟨rfl, h⟩⟩

theorem State.Alongside.trans (h : s.Alongside t) (h' : t.Alongside u) : s.Alongside u where
  eq := by rw [h'.eq, h.eq]
  pads hnone := by
    obtain ⟨hext, hworld⟩ := h.pads hnone
    obtain ⟨hext', hworld'⟩ := h'.pads hworld
    exact ⟨hext'.trans hext, hworld'⟩

theorem State.Alongside.params (h : s.Alongside t) : t.params = s.params := by rw [h.eq]
theorem State.Alongside.phase (h : s.Alongside t) : t.phase = s.phase := by rw [h.eq]
theorem State.Alongside.cmd (h : s.Alongside t) : t.cmd = s.cmd := by rw [h.eq]
theorem State.Alongside.latch (h : s.Alongside t) : t.latch = s.latch := by rw [h.eq]
theorem State.Alongside.bank (h : s.Alongside t) : t.bank = s.bank := by rw [h.eq]
theorem State.Alongside.lock (h : s.Alongside t) : t.lock = s.lock := by rw [h.eq]
theorem State.Alongside.port (h : s.Alongside t) : t.port = s.port := by rw [h.eq]
theorem State.Alongside.device (h : s.Alongside t) : t.device = s.device := by rw [h.eq]
theorem State.Alongside.trace (h : s.Alongside t) : t.trace = s.trace := by rw [h.eq]
theorem State.Alongside.response (h : s.Alongside t) : t.response = s.response := by rw [h.eq]; rfl
theorem State.Alongside.fetch (h : s.Alongside t) : t.fetch = s.fetch := by rw [h.eq]; rfl

theorem State.alongside_schedule (s : State) (ms : List Mover) : s.Alongside { s with schedule := ms } :=
  ⟨rfl, fun h => ⟨rfl, h⟩⟩

/-- While `CONSUMER` holds the lock, a slot of `OTHER` uses up its list at most (20_memory.md R46). -/
theorem otherStep_alongside (hlock : s.lock = .consumer) : s.Alongside (otherStep s) := by
  rcases otherStep_cases s with
    heq | ⟨rest, -, hfree, -⟩ | ⟨a, rest, -, hfree, -⟩ | ⟨a, v, rest, -, hfree, -⟩ | ⟨rest, -, heq⟩
  case inl => rw [heq]; exact .refl s
  case inr.inl => simp [hlock] at hfree
  case inr.inr.inl => exact absurd hlock hfree
  case inr.inr.inr.inl => exact absurd hlock hfree
  case inr.inr.inr.inr =>
    have hkept : (if s.lock = .other then .free else s.lock) = s.lock := if_neg (by simp [hlock])
    rw [heq, hkept]
    exact ⟨rfl, fun h => ⟨rfl, h⟩⟩

theorem worldStep_alongside (s : State) : s.Alongside (worldStep s) :=
  ⟨by rw [worldStep_eq], fun hnone => by simp [worldStep, hnone]⟩

/-- What a run under the lock takes: the lock with `CONSUMER`, the reference environment, and `n` slots of the block among
slots of `OTHER` and `WORLD`. -/
structure State.UnderLock (s : State) (n : Nat) : Prop where
  lock : s.lock = .consumer
  device : s.device = .reference
  movers : ∀ mover ∈ s.schedule, mover = .prm ∨ mover = .other ∨ mover = .world
  slots : s.schedule.count .prm = n

theorem State.UnderLock.alongside (h : s.UnderLock n) (ht : s.Alongside t) {k : Nat} (hsub : t.schedule ⊆ s.schedule)
    (hslots : t.schedule.count .prm = k) : t.UnderLock k where
  lock := ht.lock.trans h.lock
  device := ht.device.trans h.device
  movers mover hmem := h.movers mover (hsub hmem)
  slots := hslots

/-- A slot of `OTHER` or `WORLD` under the lock. -/
theorem step_alongside {mover : Mover} {ms : List Mover} (hs : s.UnderLock n) (hschedule : s.schedule = mover :: ms)
    (hmover : mover ≠ .prm) : ∃ t, step s = .next t ∧ s.Alongside t ∧ t.schedule = ms ∧ t.UnderLock n := by
  suffices h : ∃ t, step s = .next t ∧ s.Alongside t by
    obtain ⟨t, hstep, halong⟩ := h
    have hrest : t.schedule = ms := by rw [step_schedule hstep, hschedule, List.tail_cons]
    refine ⟨t, hstep, halong, hrest, hs.alongside halong (by simp [hrest, hschedule]) ?_⟩
    rw [hrest, ← hs.slots, hschedule, List.count_cons_of_ne hmover]
  have hoff := s.alongside_schedule ms
  rw [step_of_schedule_cons hschedule]
  obtain rfl | rfl | rfl := hs.movers mover (by simp [hschedule])
  · exact absurd rfl hmover
  · exact ⟨_, rfl, hoff.trans (otherStep_alongside hs.lock)⟩
  · exact ⟨_, rfl, hoff.trans (worldStep_alongside _)⟩

/-- With no slot of the block left, a run under the lock moves the others alone. -/
theorem run_alongside (hs : s.UnderLock 0) : ∃ t, run s.schedule.length s = .next t ∧ s.Alongside t := by
  induction hms : s.schedule generalizing s with
  | nil => exact ⟨s, rfl, .refl s⟩
  | cons mover ms ih =>
    have hmover : mover ≠ .prm := by
      rintro rfl
      simpa [hms] using hs.slots
    obtain ⟨t, hstep, halong, hrest, ht⟩ := step_alongside hs hms hmover
    obtain ⟨u, hrun, hu⟩ := ih ht hrest
    exact ⟨u, (run_succ_of_step hstep).trans hrun, halong.trans hu⟩

/-- A run under the lock comes to the block's next slot with nothing but the others moved. -/
theorem run_to_block (hs : s.UnderLock (n + 1)) :
    ∃ u, s.Alongside u ∧ u.UnderLock n ∧
      ∀ t, blockStep u = .next t → run s.schedule.length s = run t.schedule.length t := by
  induction hms : s.schedule generalizing s with
  | nil =>
    have hslots := hs.slots
    simp [hms] at hslots
  | cons mover ms ih =>
    by_cases hmover : mover = .prm
    case pos =>
      subst hmover
      have hoff := s.alongside_schedule ms
      refine ⟨_, hoff, hs.alongside hoff (by simp [hms]) (by simpa [hms] using hs.slots), fun t ht => ?_⟩
      have hstep : step s = .next t := by rw [step_of_schedule_cons hms]; exact ht
      rw [List.length_cons, run_succ_of_step hstep, step_schedule hstep, hms, List.tail_cons]
    case neg =>
      obtain ⟨t, hstep, halong, hrest, ht⟩ := step_alongside hs hms hmover
      obtain ⟨u, hu, hlocked, hrun⟩ := ih ht hrest
      refine ⟨u, halong.trans hu, hlocked, fun x hx => ?_⟩
      rw [List.length_cons, run_succ_of_step hstep, hrun x hx]

/-! The steps of the command. -/

/-- In the reference environment no action changes the device. -/
theorem BlockAction.apply_device (m : BlockAction) (h : s.device = .reference) : (m.apply s).device = .reference := by
  cases m with
  | accept c pin =>
    rw [apply, State.accept_eq]
    exact h
  | _ => simp [apply, h]

/-- The block's next step in a run under the lock: its action, in a state that the others have moved on. -/
theorem run_action_underLock (hs : s.UnderLock (n + 1)) (hfetch : s.fetch = .command i)
    (hm : blockAction s.params i s.phase = some m) :
    ∃ u, s.Alongside u ∧ (m.apply u).UnderLock n ∧
      run s.schedule.length s = run (m.apply u).schedule.length (m.apply u) := by
  obtain ⟨u, halong, hlocked, hrun⟩ := run_to_block hs
  obtain ⟨-, -, hlock, -, -, -, hschedule, -⟩ := m.apply_frame u
  refine ⟨u, halong, ⟨hlock.trans hlocked.lock, m.apply_device hlocked.device, hschedule ▸ hlocked.movers,
    hschedule ▸ hlocked.slots⟩, hrun _ ?_⟩
  have hexec : exec i u = .next (m.apply u) := by
    rw [exec_eq_outcome, halong.params, halong.phase, hm, BlockAction.outcome]
  simp only [blockStep, halong.fetch.trans hfetch, hexec]

/-- The bit that an action forces, and to which level. -/
def BlockAction.forces : BlockAction → Option (BitLoc × Bool)
  | .write l level _ | .writeLast l level => some (l, level)
  | .accept _ _ | .read _ _ | .readBit _ | .hold => none

theorem BlockAction.apply_of_forces (s : State) (h : m.forces = some (l, level)) :
    (m.apply s).trace = s.trace ++ [⟨.prm, .poke l.addr (forceBit level s.latch l.off)⟩] ∧
      (m.apply s).bank = (s.busPoke .prm l.addr (forceBit level s.latch l.off)).bank ∧ (m.apply s).cmd = s.cmd := by
  cases m with
  | write k level' next =>
    obtain ⟨rfl, rfl⟩ := Prod.mk.inj (Option.some.inj h)
    simp [apply]
  | writeLast k level' =>
    obtain ⟨rfl, rfl⟩ := Prod.mk.inj (Option.some.inj h)
    simp [apply]
  | accept | read | readBit | hold => cases h

/-- From `s` to `v` the block has done one read-modify-write, which read `w`, on the stored bits of `s`. -/
structure State.DidRmw (s v : State) (l : BitLoc) (level : Bool) (w : Word) : Prop where
  params : v.params = s.params
  cmd : v.cmd = s.cmd
  trace : v.trace = s.trace ++ (rmwOps l level w).map (⟨.prm, ·⟩)
  bank : v.bank = (s.rmw l.addr (forceBit level · l.off)).bank

/-- A read-modify-write in a run under the lock, with slots of the others before its read and between its halves. -/
theorem run_rmw_underLock {ph : Phase} (hs : s.UnderLock (n + 2)) (hcmd : s.cmd = encode i) (hpin : i.pin ≤ 255)
    (hl : l.Stored s.params) (hread : blockAction s.params i s.phase = some (.read l.addr ph))
    (hm : blockAction s.params i ph = some m) (hforces : m.forces = some (l, level)) :
    ∃ u w, s.DidRmw (m.apply u) l level w ∧ (m.apply u).UnderLock n ∧
      run s.schedule.length s = run (m.apply u).schedule.length (m.apply u) := by
  have hfits : s.phase = .rd1 ∧ ph = .wr1 ∨ s.phase = .rd2 ∧ ph = .wr2 := blockAction_fits hread
  have hfetch : s.fetch = .command i := State.fetch_of_busy (by grind) (by grind) hcmd hpin
  obtain ⟨u, hu, hreads, hrun⟩ := run_action_underLock hs hfetch hread
  let r : State := (u.readLatch l.addr).goto ph
  have hrparams : r.params = s.params := by simpa [r] using hu.params
  have hrcmd : r.cmd = s.cmd := by simpa [r] using hu.cmd
  have hrbank : r.bank = s.bank := by simpa [r] using hu.bank
  have hdevice : u.device = .reference := hu.device.trans hs.device
  have hrlatch : r.latch = u.refPeek l.addr := by simp [r, State.answer_reference u l.addr hdevice]
  have hrtrace : r.trace = s.trace ++ [⟨.prm, .peek l.addr (u.refPeek l.addr)⟩] := by
    simp [r, State.answer_reference u l.addr hdevice, hu.trace]
  have hrfetch : r.fetch = .command i :=
    State.fetch_of_busy (by grind [State.goto_phase]) (by grind [State.goto_phase]) (hrcmd.trans hcmd) hpin
  obtain ⟨v, hv, hwrites, hrun'⟩ := run_action_underLock (s := r) hreads hrfetch (by rw [hrparams]; exact hm)
  obtain ⟨htrace, hbank, hvcmd⟩ := BlockAction.apply_of_forces v hforces
  obtain ⟨hvparams, -⟩ := m.apply_frame v
  refine ⟨v, u.refPeek l.addr, ⟨?params, ?cmd, ?trace, ?bank⟩, hwrites, hrun.trans hrun'⟩
  case params => rw [hvparams, hv.params, hrparams]
  case cmd => rw [hvcmd, hv.cmd, hrcmd]
  case trace =>
    rw [htrace, hv.trace, hv.latch, hrlatch, hrtrace, List.append_assoc]
    rfl
  case bank =>
    rw [hbank, State.busPoke_reference _ _ _ _ (hv.device.trans hreads.device), State.record_bank, hv.latch, hrlatch]
    exact State.rmw_bank_congr hl hu.params hu.bank (hv.params.trans hrparams) (hv.bank.trans hrbank)

/-! Whole commands. -/

theorem bigEffect_hiz (s : State) (hd : dirLoc s.params pin = some d) :
    bigEffect (.setpinHiz pin) s = s.rmw d.addr (forceBit false · d.off) := by
  simp only [bigEffect, hd]
  rfl

theorem bigEffect_drive (s : State) (ho : outLoc s.params pin = some o) (hd : dirLoc s.params pin = some d) :
    bigEffect (drive level pin) s =
      (s.rmw o.addr (forceBit level · o.off)).rmw d.addr (forceBit true · d.off) := by
  cases level with
  | false =>
    simp only [drive_false, bigEffect, ho, hd]
    rfl
  | true =>
    simp only [drive_true, bigEffect, ho, hd]
    rfl

/-- The block has accepted `i` in a run under the lock, with `n` steps to go. -/
structure State.AcceptedUnderLock (s : State) (i : Instr) (n : Nat) : Prop extends s.UnderLock n where
  cmd : s.cmd = encode i
  phase : s.phase = .rd1
  pin_le : i.pin ≤ 255
  valid : validPin i.pin = true

/-- From `s` the run under the lock comes to `v`, where the command has run its row and its effect on the bank is the big-step
one. -/
structure State.RanUnderLock (s v : State) (i : Instr) (w1 w2 : Word) : Prop extends s.RanRow v i w1 w2, v.UnderLock 0 where
  run : run s.schedule.length s = run v.schedule.length v
  bank : v.bank = (bigEffect i s).bank

theorem run_getpin_underLock (hs : s.AcceptedUnderLock (.getpin pin) 1) :
    ∃ v w, s.RanUnderLock v (.getpin pin) w w ∧
      (s.world = [] → ∀ l, inLoc s.params pin = some l → w = s.refPeek l.addr) := by
  have hvalid : validPin pin = true := hs.valid
  obtain ⟨l, hl⟩ := exists_inLoc s.params hvalid
  have hrow : blockAction s.params (.getpin pin) s.phase = some (.readBit l) := hs.phase ▸ blockAction_getpin hl
  have hfetch : s.fetch = .command (.getpin pin) :=
    State.fetch_of_busy (by simp [hs.phase]) (by simp [hs.phase]) hs.cmd hs.pin_le
  obtain ⟨u, hu, hlocked, hrun⟩ := run_action_underLock hs.toUnderLock hfetch hrow
  have hanswer := State.answer_reference u l.addr (hu.device.trans hs.device)
  refine ⟨_, u.refPeek l.addr, ⟨⟨rfl, ?trace, ?response⟩, hlocked, hrun, ?bank⟩, fun hnone k hk => ?read⟩
  case trace => simp [BlockAction.apply, bigStep_getpin _ _ hl, hanswer, hu.trace]
  case response => simp [BlockAction.apply, State.response, bigStep_getpin _ _ hl, hanswer]
  case bank => simp [BlockAction.apply, bigEffect, hu.bank]
  case read =>
    obtain rfl := Option.some.inj (hl.symm.trans hk)
    obtain ⟨hext, -⟩ := hu.pads hnone
    exact State.refPeek_congr l.addr hu.params hu.bank hext

theorem run_hiz_underLock (hs : s.AcceptedUnderLock (.setpinHiz pin) 2) :
    ∃ v w, s.RanUnderLock v (.setpinHiz pin) w w := by
  have hvalid : validPin pin = true := hs.valid
  obtain ⟨-, d, -, hd, -, hstored, -⟩ := stored_of_validPin s.params hvalid
  obtain ⟨hrd1, hwr1⟩ := blockAction_hiz hd
  obtain ⟨u, w, hrmw, hlocked, hrun⟩ :=
    run_rmw_underLock hs.toUnderLock hs.cmd hs.pin_le hstored (hs.phase ▸ hrd1) hwr1 rfl
  refine ⟨_, w, ⟨⟨rfl, ?trace, ?response⟩, hlocked, hrun, ?bank⟩⟩
  case trace => rw [bigStep_hiz w w hd, hrmw.trace]
  case response => rw [bigStep_hiz w w hd, BlockAction.apply, State.response, State.respond_rspData, State.respond_rspErr]
  case bank => rw [bigEffect_hiz s hd, hrmw.bank]

theorem run_drive_underLock (hs : s.AcceptedUnderLock (drive level pin) 4) :
    ∃ v w1 w2, s.RanUnderLock v (drive level pin) w1 w2 := by
  have hvalid : validPin pin = true := drive_pin level pin ▸ hs.valid
  obtain ⟨o, d, ho, hd, hostored, hdstored, -⟩ := stored_of_validPin s.params hvalid
  obtain ⟨hrd1, hwr1, hrd2, hwr2⟩ := blockAction_drive level ho hd
  obtain ⟨u, w1, hout, hlocked, hrun⟩ :=
    run_rmw_underLock hs.toUnderLock hs.cmd hs.pin_le hostored (hs.phase ▸ hrd1) hwr1 rfl
  let r : State := (BlockAction.write o level .rd2).apply u
  have hparams : r.params = s.params := hout.params
  obtain ⟨u', w2, hdir, hlocked', hrun'⟩ :=
    run_rmw_underLock (s := r) hlocked (hout.cmd.trans hs.cmd) hs.pin_le (hparams ▸ hdstored) (hparams ▸ hrd2)
      (hparams ▸ hwr2) rfl
  refine ⟨_, w1, w2, ⟨⟨rfl, ?trace, ?response⟩, hlocked', hrun.trans hrun', ?bank⟩⟩
  case trace => rw [bigStep_drive w1 w2 ho hd, hdir.trace, hout.trace, List.map_append, List.append_assoc]
  case response =>
    rw [bigStep_drive w1 w2 ho hd, BlockAction.apply, State.response, State.respond_rspData, State.respond_rspErr]
  case bank =>
    rw [bigEffect_drive s ho hd, hdir.bank]
    exact State.rmw_bank_congr_of_rmw hdstored hparams hout.bank

/-- The big-step effect of a command on a bank depends on the parameters and the bank alone. -/
theorem bigEffect_bank_congr (hvalid : validPin i.pin = true) (hparams : t.params = s.params) (hbank : t.bank = s.bank) :
    (bigEffect i t).bank = (bigEffect i s).bank := by
  obtain ⟨pin, rfl⟩ | ⟨pin, rfl⟩ | ⟨level, pin, rfl⟩ := instr_cases i
  case inl => exact hbank
  case inr.inl =>
    have hvalid : validPin pin = true := hvalid
    obtain ⟨-, d, -, hd, -, hstored, -⟩ := stored_of_validPin s.params hvalid
    rw [bigEffect_hiz s hd, bigEffect_hiz t (hparams ▸ hd)]
    exact State.rmw_bank_congr hstored hparams hbank hparams hbank
  case inr.inr =>
    rw [drive_pin] at hvalid
    obtain ⟨o, d, ho, hd, hostored, hdstored, -⟩ := stored_of_validPin s.params hvalid
    rw [bigEffect_drive s ho hd, bigEffect_drive t (hparams ▸ ho) (hparams ▸ hd)]
    exact State.rmw_bank_congr_of_rmw hdstored ((t.refPoke_params _ _).trans hparams)
      (State.rmw_bank_congr hostored hparams hbank hparams hbank)

/-- Every valid command that the block has accepted runs its row under the lock. -/
theorem run_accepted_underLock (hs : s.AcceptedUnderLock i (blockSteps i - 1)) :
    ∃ v w1 w2, s.RanUnderLock v i w1 w2 ∧
      ∀ pin l, i = .getpin pin → s.world = [] → inLoc s.params pin = some l → w1 = s.refPeek l.addr := by
  cases i with
  | getpin pin =>
    obtain ⟨v, w, hran, hread⟩ := run_getpin_underLock hs
    refine ⟨v, w, w, hran, fun pin' l heq hnone hl => hread hnone l ?_⟩
    rwa [Instr.getpin.inj heq]
  | setpinHiz pin =>
    obtain ⟨v, w, hran⟩ := run_hiz_underLock hs
    exact ⟨v, w, w, hran, by simp⟩
  | setpinLow pin =>
    obtain ⟨v, w1, w2, hran⟩ := run_drive_underLock (level := false) hs
    exact ⟨v, w1, w2, hran, by simp⟩
  | setpinHigh pin =>
    obtain ⟨v, w1, w2, hran⟩ := run_drive_underLock (level := true) hs
    exact ⟨v, w1, w2, hran, by simp⟩

end Sys2Proof.Machine
end

section

open Sys2Proof Sys2Proof.Machine

/-- Settles O25: under the lock the others move the pads and their own lists alone (`State.Alongside`), so the block's steps are
those of the command, and each read-modify-write does to the bank what it does undisturbed (`State.rmw_bank_congr`). -/
theorem bigStepUnderLock : Obligations.BigStepUnderLock := by
  intro i s hwf hvalid hidle hport hlock hdevice hmovers hslots
  have hpin : i.pin ≤ 255 := of_decide_eq_true hwf
  have hsteps : blockSteps i = blockSteps i - 1 + 1 := by cases i <;> rfl
  have hs : s.UnderLock (blockSteps i - 1 + 1) := ⟨hlock, hdevice, hmovers, hslots.trans hsteps⟩
  obtain ⟨u, hu, hlocked, hrun⟩ :=
    run_action_underLock (m := .accept (encode i) i.pin) hs (State.fetch_of_idle hidle hport hpin) (by rw [hidle, blockAction])
  rw [BlockAction.apply, State.accept_valid _ hvalid] at hlocked hrun
  let accepted : State := { u with cmd := encode i, port := none, phase := .rd1 }
  have haccepted : accepted.AcceptedUnderLock i (blockSteps i - 1) := ⟨hlocked, rfl, rfl, hpin, hvalid⟩
  have hparams : accepted.params = s.params := hu.params
  have hbank : accepted.bank = s.bank := hu.bank
  obtain ⟨v, w1, w2, hran, hread⟩ := run_accepted_underLock haccepted
  obtain ⟨t, hlast, ht⟩ := run_alongside hran.toUnderLock
  refine ⟨t, w1, w2, ?run, ht.phase.trans hran.phase, ht.lock.trans hran.lock, ?bank, ?trace, ?response,
    fun pin l hi hnone hl => ?read⟩
  case run => rw [hrun, hran.run, hlast]
  case bank => rw [ht.bank, hran.bank, bigEffect_bank_congr hvalid hparams hbank]
  case trace =>
    have htrace : accepted.trace = s.trace := hu.trace
    rw [ht.trace, hran.trace, htrace, hparams]
  case response => rw [ht.response, hran.response, hparams]
  case read =>
    obtain ⟨hext, hworld⟩ := hu.pads hnone
    rw [hread pin l hi hworld (by rw [hparams]; exact hl)]
    exact State.refPeek_congr l.addr hparams hbank hext

end

section
/-! The set operations of 42_setpin.md: each transaction as the state it leaves, and the stored bits a whole command leaves. -/

namespace Sys2Proof.Machine

variable {s : State} {i : Instr} {l o d : BitLoc} {level : Bool} {pin : Nat} {next : Phase}

theorem State.dirBit_of_loc (s : State) (hd : dirLoc s.params pin = some d) : s.dirBit pin = s.storedBit d := by
  simp only [State.dirBit, hd, Option.map_some, Option.getD_some]

theorem State.outBit_of_loc (s : State) (ho : outLoc s.params pin = some o) : s.outBit pin = s.storedBit o := by
  simp only [State.outBit, ho, Option.map_some, Option.getD_some]

/-! The transactions. -/

/-- A read of the block changes `LATCH`, `PHASE`, the trace and what it uses up of the device (41_rmw_sequencer.md R79, R81). -/
theorem State.readLatch_goto_eq (s : State) (a : Addr) (next : Phase) :
    (s.readLatch a).goto next =
      { s with
        latch := (s.answer a).1
        phase := next
        trace := s.trace ++ [⟨.prm, .peek a (s.answer a).1⟩]
        device := (s.answer a).2.device
        freeCount := (s.answer a).2.freeCount } := by
  rw [State.readLatch, State.busPeek, State.answer_eq]
  rfl

/-- A write by a master changes the bank and the trace alone, whatever the device. -/
theorem State.busPoke_eq (s : State) (who : Master) (a : Addr) (v : Word) :
    s.busPoke who a v = { s with bank := (s.busPoke who a v).bank, trace := s.trace ++ [⟨who, .poke a v⟩] } := by
  obtain ⟨hdevice, -⟩ | ⟨-, hpoke⟩ := s.busPoke_cases who a v
  · rw [State.busPoke_reference_eq who hdevice]
  · rw [hpoke]
    rfl

/-- The reference environment stores the bit that a write of a stored place forces (10_state.md R31). -/
theorem State.storedBit_busPoke_forceBit (who : Master) (w : Word) (hl : l.Stored s.params) (hdevice : s.device = .reference) :
    (s.busPoke who l.addr (forceBit level w l.off)).storedBit l = level := by
  have hword : (forceBit level w l.off).getLsbD l.off = level :=
    (forceBit_getLsbD level w l.off hl.off_lt).trans (if_pos rfl)
  rw [State.busPoke_reference _ _ _ _ hdevice]
  exact (State.bankRead_refPoke_stored _ hl hl.off_lt_of_addrA).trans hword

/-- From `s` to `t` the register of `l` was written with `v`, which is `LATCH` with that one bit forced: no other address
changed, and the reference environment stores the bit (41_rmw_sequencer.md R75). -/
structure State.WroteBit (s t : State) (l : BitLoc) (level : Bool) (v : Word) : Prop where
  word : ∀ j, v.getLsbD j = if j = l.off then level else s.latch.getLsbD j
  params : t.params = s.params
  elsewhere : ∀ a, a ≠ l.addr → t.bankRead a = s.bankRead a
  stored : s.device = .reference → t.storedBit l = level

theorem State.wroteBit_busPoke (who : Master) (level : Bool) (hl : l.Stored s.params) :
    s.WroteBit (s.busPoke who l.addr (forceBit level s.latch l.off)) l level (forceBit level s.latch l.off) where
  word j := forceBit_getLsbD level s.latch j hl.off_lt
  params := s.busPoke_params who l.addr _
  elsewhere a ha := s.bankRead_busPoke_ne who l.addr a _ ha
  stored hdevice := State.storedBit_busPoke_forceBit who s.latch hl hdevice

/-- The bits written do not depend on the phase and the response that come after the write. -/
theorem State.WroteBit.of_bank_eq {t u : State} {v : Word} (h : s.WroteBit t l level v) (hparams : u.params = t.params)
    (hbank : u.bank = t.bank) : s.WroteBit u l level v where
  word := h.word
  params := hparams.trans h.params
  elsewhere a ha := (congrArg (Memory.read · a.toNat) hbank).trans (h.elsewhere a ha)
  stored hdevice := (congrArg (fun m => (Memory.read m l.addr.toNat).getLsbD l.off) hbank).trans (h.stored hdevice)

theorem State.WroteBit.dirBit {t : State} {v : Word} (h : s.WroteBit t d level v) (hd : dirLoc s.params pin = some d)
    (hdevice : s.device = .reference) : t.dirBit pin = level :=
  (t.dirBit_of_loc (h.params ▸ hd)).trans (h.stored hdevice)

theorem State.WroteBit.outBit {t : State} {v : Word} (h : s.WroteBit t o level v) (ho : outLoc s.params pin = some o)
    (hdevice : s.device = .reference) : t.outBit pin = level :=
  (t.outBit_of_loc (h.params ▸ ho)).trans (h.stored hdevice)

/-- A step that reads for a read-modify-write, with any device behind the bus (41_rmw_sequencer.md R79, R81). -/
theorem exec_read {a : Addr} (hm : blockAction s.params i s.phase = some (.read a next)) :
    exec i s = .next
      { s with
        latch := (s.answer a).1
        phase := next
        trace := s.trace ++ [⟨.prm, .peek a (s.answer a).1⟩]
        device := (s.answer a).2.device
        freeCount := (s.answer a).2.freeCount } := by
  rw [exec_eq_outcome, hm, BlockAction.outcome, BlockAction.apply, State.readLatch_goto_eq]

/-- A step that writes and leads on to the second read-modify-write (41_rmw_sequencer.md R80). -/
theorem exec_write (hm : blockAction s.params i s.phase = some (.write l level next)) (hl : l.Stored s.params) :
    ∃ t v, exec i s = .next t ∧ s.WroteBit t l level v ∧
      t = { s with bank := t.bank, phase := next, trace := s.trace ++ [⟨.prm, .poke l.addr v⟩] } :=
  ⟨(BlockAction.write l level next).apply s, _, by rw [exec_eq_outcome, hm, BlockAction.outcome],
    (State.wroteBit_busPoke .prm level hl).of_bank_eq rfl rfl, congrArg (State.goto next) (s.busPoke_eq .prm l.addr _)⟩

/-- A step that writes and completes the command with the response of a success (41_rmw_sequencer.md R80, R82). -/
theorem exec_writeLast (hm : blockAction s.params i s.phase = some (.writeLast l level)) (hl : l.Stored s.params) :
    ∃ t v, exec i s = .next t ∧ s.WroteBit t l level v ∧
      t = { s with
        bank := t.bank
        rspData := 0x0000#16
        rspErr := errNone
        phase := .resp
        trace := s.trace ++ [⟨.prm, .poke l.addr v⟩] } :=
  ⟨(BlockAction.writeLast l level).apply s, _, by rw [exec_eq_outcome, hm, BlockAction.outcome],
    (State.wroteBit_busPoke .prm level hl).of_bank_eq rfl rfl,
    congrArg (State.respond 0x0000#16 errNone) (s.busPoke_eq .prm l.addr _)⟩

/-! `SETPIN.HIZ`, whole. -/

/-- The state in which `SETPIN.HIZ` leaves the reference environment when it runs alone. -/
def State.afterHiz (s : State) (pin : Nat) (d : BitLoc) : State :=
  (((s.loadCommand (encode (.setpinHiz pin))).goto .rd1).afterRmw d false .wr1).respond 0x0000#16 errNone

/-- Its one read-modify-write puts the direction bit to 0, and no other stored bit (42_setpin.md R89, R92). -/
theorem State.storedBit_afterHiz (s : State) (pin : Nat) (hd : d.Stored s.params) (q : BitLoc) :
    (s.afterHiz pin d).storedBit q = if q = d then false else s.storedBit q :=
  State.storedBit_afterRmw (s := (s.loadCommand (encode (.setpinHiz pin))).goto .rd1) false .wr1 hd q

/-- `SETPIN.HIZ`, run alone in the reference environment (41_rmw_sequencer.md R88). -/
theorem run_hiz (n : Nat) (hpin : pin ≤ 255) (hvalid : validPin pin = true) (hschedule : s.schedule = [])
    (hphase : s.phase = .idle) (hport : s.port = some (encode (.setpinHiz pin))) (hdevice : s.device = .reference)
    (hd : dirLoc s.params pin = some d) : run (n + 3) s = run n (s.afterHiz pin d) := by
  obtain ⟨hrd1, hwr1⟩ := blockAction_hiz hd
  let accepted : State := (s.loadCommand (encode (.setpinHiz pin))).goto .rd1
  calc run (n + 3) s = run (n + 2) accepted := run_accept (n + 2) hschedule hphase hport hpin hvalid
    _ = run n (s.afterHiz pin d) := run_writeLast n hschedule rfl hpin hdevice hrd1 hwr1

end Sys2Proof.Machine
end

section

open Sys2Proof Sys2Proof.Machine

/-- Settles O26: the two read-modify-writes of the command leave the state `State.afterDrive`, and
`State.storedBit_afterDrive` says of each of its stored bits what it is. -/
theorem setpinDrivesPin : Obligations.SetpinDrivesPin := by
  intro level pin s hpin hvalid hschedule hidle hport hdevice
  obtain ⟨o, d, ho, hd, hostored, hdstored, hne⟩ := stored_of_validPin s.params hvalid
  have hstored := State.storedBit_afterDrive level pin hostored hdstored
  let t : State := s.afterDrive level pin o d
  refine ⟨t, o, d, run_drive 0 hpin hvalid hschedule hidle hport hdevice ho hd, ho, hd, rfl, rfl,
    ?out, ?dir, fun q hqo hqd => ?others⟩
  case out => exact (t.outBit_of_loc ho).trans ((hstored o).trans (by rw [if_neg hne, if_pos rfl]))
  case dir => exact (t.dirBit_of_loc hd).trans ((hstored d).trans (if_pos rfl))
  case others => rw [hstored q, if_neg hqd, if_neg hqo]

/-- Settles O27: the one read-modify-write of the command leaves the state `State.afterHiz`; the output bit is at another place
than the direction bit, so it is among the bits that stay. -/
theorem hizReleasesPin : Obligations.HizReleasesPin := by
  intro pin s hpin hvalid hschedule hidle hport hdevice
  obtain ⟨o, d, ho, hd, -, hdstored, hne⟩ := stored_of_validPin s.params hvalid
  let t : State := s.afterHiz pin d
  have hstored := s.storedBit_afterHiz pin hdstored
  have hkept (q : BitLoc) (hq : q ≠ d) : t.storedBit q = s.storedBit q := (hstored q).trans (if_neg hq)
  refine ⟨t, d, run_hiz 0 hpin hvalid hschedule hidle hport hdevice hd, hd, rfl, rfl, ?dir, ?out, hkept⟩
  case dir => exact (t.dirBit_of_loc hd).trans ((hstored d).trans (if_pos rfl))
  case out => exact (t.outBit_of_loc ho).trans ((hkept o hne).trans (s.outBit_of_loc ho).symm)

/-- Settles O17: the row of `SETPIN.HIZ` is a read (`exec_read`) and a last write (`exec_writeLast`) of the direction register. -/
theorem setpinHizCompletes : Obligations.SetpinHizCompletes := by
  intro pin s hvalid
  obtain ⟨-, d, -, hd, -, hstored, -⟩ := stored_of_validPin s.params hvalid
  obtain ⟨hrd1, hwr1⟩ := blockAction_hiz hd
  refine ⟨d, hd, fun hphase => ?rd1, fun hphase => ?wr1⟩
  case rd1 => exact exec_read (hphase ▸ hrd1)
  case wr1 =>
    obtain ⟨t, v, hexec, hwrote, heq⟩ := exec_writeLast (hphase ▸ hwr1) hstored
    exact ⟨t, v, hexec, hwrote.word, heq, hwrote.elsewhere, hwrote.dirBit hd⟩

/-- Settles O18: the row of a driving operation is a read and a write of the output register and then of the direction register,
the second write the last (`blockAction_drive`). -/
theorem setpinLevelCompletes : Obligations.SetpinLevelCompletes := by
  intro level pin s hvalid
  obtain ⟨o, d, ho, hd, hostored, hdstored, -⟩ := stored_of_validPin s.params hvalid
  obtain ⟨hrd1, hwr1, hrd2, hwr2⟩ := blockAction_drive level ho hd
  refine ⟨o, d, ho, hd, fun hphase => ?rd1, fun hphase => ?wr1, fun hphase => ?rd2, fun hphase => ?wr2⟩
  case rd1 => exact exec_read (hphase ▸ hrd1)
  case wr1 =>
    obtain ⟨t, v, hexec, hwrote, heq⟩ := exec_write (hphase ▸ hwr1) hostored
    exact ⟨t, v, hexec, hwrote.word, heq, hwrote.elsewhere, hwrote.outBit ho⟩
  case rd2 => exact exec_read (hphase ▸ hrd2)
  case wr2 =>
    obtain ⟨t, v, hexec, hwrote, heq⟩ := exec_writeLast (hphase ▸ hwr2) hdstored
    exact ⟨t, v, hexec, hwrote.word, heq, hwrote.elsewhere, hwrote.dirBit hd⟩

end

section
/-! `GETPIN` (43_getpin.md): its one read and response, as the state they leave. -/

namespace Sys2Proof.Machine

variable {s : State} {pin : Nat} {l : BitLoc}

/-- The read of a `GETPIN` and its response change `LATCH`, the response, `PHASE`, the trace and what is used up of the device
(43_getpin.md R94). -/
theorem BlockAction.apply_readBit (s : State) (l : BitLoc) :
    (BlockAction.readBit l).apply s =
      { s with
        latch := (s.answer l.addr).1
        rspData := if (s.answer l.addr).1.getLsbD l.off then 0x0001#16 else 0x0000#16
        rspErr := errNone
        phase := .resp
        trace := s.trace ++ [⟨.prm, .peek l.addr (s.answer l.addr).1⟩]
        device := (s.answer l.addr).2.device
        freeCount := (s.answer l.addr).2.freeCount } := by
  rw [BlockAction.apply, zext16_getBit, State.readLatch, State.busPeek, State.answer_eq]
  rfl

/-- The response of a `GETPIN` is the input bit of the word that the device answers. -/
theorem BlockAction.apply_readBit_response (s : State) (l : BitLoc) :
    ((BlockAction.readBit l).apply s).response =
      ⟨if (s.answer l.addr).1.getLsbD l.off then 0x0001#16 else 0x0000#16, errNone⟩ := by
  rw [BlockAction.apply_readBit]
  rfl

/-- The step of a `GETPIN` that reads (41_rmw_sequencer.md R79). -/
theorem exec_getpin_rd1 (hphase : s.phase = .rd1) (hl : inLoc s.params pin = some l) :
    exec (.getpin pin) s = .next ((BlockAction.readBit l).apply s) := by
  rw [exec_eq_outcome, hphase, blockAction_getpin hl, BlockAction.outcome]

/-- `GETPIN`, run alone: the acceptance, and the one read with its response (41_rmw_sequencer.md R88). -/
theorem run_getpin_readBit (n : Nat) (hpin : pin ≤ 255) (hvalid : validPin pin = true) (hschedule : s.schedule = [])
    (hphase : s.phase = .idle) (hport : s.port = some (encode (.getpin pin))) (hl : inLoc s.params pin = some l) :
    run (n + 2) s =
      run n ((BlockAction.readBit l).apply ((s.loadCommand (encode (.getpin pin))).goto .rd1)) := by
  let accepted : State := (s.loadCommand (encode (.getpin pin))).goto .rd1
  calc run (n + 2) s = run (n + 1) accepted := run_accept (n + 1) hschedule hphase hport hpin hvalid
    _ = run n ((BlockAction.readBit l).apply accepted) :=
      run_action n hschedule rfl hpin Phase.noConfusion Phase.noConfusion (blockAction_getpin hl)

end Sys2Proof.Machine
end

section

open Sys2Proof Sys2Proof.Machine

/-- Settles O28: the command leaves the state of `BlockAction.apply_readBit`, in which the reference environment answers what it
shows at the start, and the input bit of that word is the line of the pin (`State.refPeek_inLoc`). -/
theorem getpinReadsLine : Obligations.GetpinReadsLine := by
  intro pin s hpin hvalid hschedule hidle hport hdevice
  obtain ⟨l, hl⟩ := exists_inLoc s.params hvalid
  let accepted : State := (s.loadCommand (encode (.getpin pin))).goto .rd1
  have hanswer : accepted.answer l.addr = (s.refPeek l.addr, accepted) := accepted.answer_reference l.addr hdevice
  refine ⟨(BlockAction.readBit l).apply accepted, l, run_getpin_readBit 0 hpin hvalid hschedule hidle hport hl, hl, rfl,
    ?response, ?bank, ?ext, ?trace⟩
  case response =>
    rw [BlockAction.apply_readBit_response, hanswer, s.refPeek_inLoc hl]
    rfl
  case bank => exact BlockAction.apply_bank (s := accepted) rfl
  case ext => exact accepted.readLatch_ext l.addr
  case trace =>
    rw [BlockAction.apply_readBit, hanswer]
    rfl

/-- Settles O16: the row of `GETPIN` is one read with its response (`exec_getpin_rd1`). -/
theorem getpinCompletes : Obligations.GetpinCompletes := by
  intro pin s hphase hvalid
  obtain ⟨l, hl⟩ := exists_inLoc s.params hvalid
  exact ⟨(BlockAction.readBit l).apply s, l, (s.answer l.addr).1, hl, rfl, exec_getpin_rd1 hphase hl,
    BlockAction.apply_readBit s l⟩

/-- Settles O23: each of the two responses is the input bit of the word read (`BlockAction.apply_readBit_response`). -/
theorem getpinUsesOneBit : Obligations.GetpinUsesOneBit := by
  intro pin s t u x l hs ht hparams hl hbit hu hx
  have hlt : inLoc t.params pin = some l := hparams ▸ hl
  obtain rfl := Host.Outcome.next.inj ((exec_getpin_rd1 hs hl).symm.trans hu)
  obtain rfl := Host.Outcome.next.inj ((exec_getpin_rd1 ht hlt).symm.trans hx)
  rw [BlockAction.apply_readBit_response, BlockAction.apply_readBit_response, hbit]

end

section
/-! The slots around the two errors of the accept step (60_exceptions.md R98, R99): the acceptance that raises one, and the
taking of its response (R102). -/

namespace Sys2Proof.Machine

variable {s : State} {i : Instr} {w : Word} {e : DecodeError}

/-- In `IDLE` the meaning of every operation is its acceptance (41_rmw_sequencer.md R77). -/
theorem exec_of_idle (hidle : s.phase = .idle) : exec i s = .next (s.accept (encode i) i.pin) := by
  rw [exec_eq_outcome, hidle, blockAction, BlockAction.outcome, BlockAction.apply]

/-- A slot of `CONSUMER` that means to take the response takes it, once there is one (41_rmw_sequencer.md R83). -/
theorem consumerStep_take {rest : List ConsumerOp} (hconsumer : s.consumer = .take :: rest) (hresp : s.phase = .resp) :
    consumerStep s = { s.takeResponse with consumer := rest } := by
  simp only [consumerStep, hconsumer, consumerTake_of_resp rest hresp]

/-- An idle block with a reserved word on the port has its acceptance to do (30_encoding.md R57). -/
theorem State.fetch_of_reserved (hidle : s.phase = .idle) (hport : s.port = some w) (hdecode : decode w = .error e) :
    s.fetch = .reserved w := by
  simp only [State.fetch, hidle, hport, hdecode]

/-- A step in which the block moves is the block's slot, in the state with the slot taken off the schedule. -/
theorem step_of_mover_prm (hmover : s.nextSlot.1 = .prm) : step s = blockStep s.nextSlot.2 := by
  rw [step, hmover, slotStep]

end Sys2Proof.Machine
end

section

open Sys2Proof Sys2Proof.Machine

/-- Settles O14: the acceptance of an invalid pin is the three assignments (`State.accept_invalid`); the taking of the response
leads back to `IDLE`, where a valid pin is accepted from any state (`acceptsValidCommand`). -/
theorem invalidPinReported : Obligations.InvalidPinReported := by
  intro i s hidle hinvalid
  have hreport : exec i s = .next
      { s with cmd := encode i, port := none, rspErr := 0b01#2, rspData := s.params.sentinel, phase := .resp } := by
    rw [exec_of_idle hidle, State.accept_invalid _ hinvalid]
    rfl
  refine ⟨_, hreport, rfl, _, congrArg Host.Outcome.next (consumerStep_take rfl rfl), rfl, rfl, fun j hvalid => ?accepted⟩
  case accepted => exact acceptsValidCommand j _ rfl hvalid

/-- Settles O15: the block's slot has the acceptance of the reserved word to do (`State.fetch_of_reserved`),
which is the three assignments (`State.acceptReserved_eq`); of the word it takes only that it decodes to no operation. -/
theorem reservedWordReported : Obligations.ReservedWordReported := by
  intro s w e hmover hidle hport hdecode
  have hfetch : s.nextSlot.2.fetch = .reserved w :=
    State.fetch_of_reserved (s.nextSlot_phase.trans hidle) (s.nextSlot_port.trans hport) hdecode
  have hparams : s.nextSlot.2.params = s.params := s.nextSlot_sameBlock.params
  rw [step_of_mover_prm hmover, blockStep, hfetch, ← hparams]
  exact congrArg Host.Outcome.next (State.acceptReserved_eq w)

end

section
/-! The gap between the two read-modify-writes of a command (70_reset_and_hazards.md R118): the first write with a write of
`OTHER` after it, and the last read-modify-write with nothing between its halves. -/

namespace Sys2Proof.Machine

variable {s : State} {i : Instr} {l : BitLoc} {level : Bool} {rest : List Mover}

/-- The block's first write and then a write of `OTHER`: the bank in the gap is what `OTHER`'s write made of some earlier one. -/
theorem run_write_other (n : Nat) {a : Addr} {v : Word} {ops : List OtherOp}
    (hschedule : s.schedule = .prm :: .other :: rest) (hcmd : decode s.cmd = .ok i) (hphase : s.phase = .wr1)
    (hwrite : blockAction s.params i .wr1 = some (.write l level .rd2)) (hl : l.Stored s.params)
    (hdevice : s.device = .reference) (hlock : s.lock ≠ .consumer) (hother : s.other = .poke a v :: ops) :
    ∃ (t : State) (x : Word), t.params = s.params ∧ run (n + 2) s = run n
      { s with
        bank := (t.refPoke a v).bank
        phase := .rd2
        other := ops
        schedule := rest
        trace := s.trace ++ [⟨.prm, .poke l.addr x⟩] ++ [⟨.other, .poke a v⟩] } := by
  let ready : State := { s with schedule := .other :: rest }
  obtain ⟨t, x, hexec, -, ht⟩ := exec_write (s := ready) (hphase ▸ hwrite) hl
  have hfirst : step s = .next t := (step_of_schedule_prm hschedule hcmd (by simp [hphase])).trans hexec
  generalize t.bank = bank at ht
  let written : State := { ready with bank := bank, phase := .rd2, trace := s.trace ++ [⟨.prm, .poke l.addr x⟩] }
  have hsecond := (otherWritesBus written a v ops rest rfl hother hdevice).2 hlock
  exact ⟨written, x, rfl, (run_succ_of_step (hfirst.trans (congrArg _ ht))).trans (run_succ_of_step hsecond)⟩

/-- What a read answers and leaves does not depend on the slots to come. -/
theorem State.answer_of_schedule (s : State) (a : Addr) (ms : List Mover) :
    State.answer a { s with schedule := ms } = ((s.answer a).1, { (s.answer a).2 with schedule := ms }) := by
  simp only [State.answer]
  split <;> rfl

theorem State.readLatch_of_schedule (s : State) (a : Addr) (ms : List Mover) :
    { s.readLatch a with schedule := ms } = State.readLatch a { s with schedule := ms } := by
  simp only [State.readLatch, State.busPeek, State.answer_of_schedule s a ms]
  rfl

/-- The last read-modify-write of a command, in two scheduled slots of the block, in the reference environment. -/
theorem run_scheduled_writeLast (n : Nat) {ph : Phase} (hschedule : s.schedule = .prm :: .prm :: rest)
    (hcmd : decode s.cmd = .ok i) (hdevice : s.device = .reference)
    (hread : blockAction s.params i s.phase = some (.read l.addr ph))
    (hwrite : blockAction s.params i ph = some (.writeLast l level)) :
    run (n + 2) s = run n ((State.afterRmw { s with schedule := rest } l level ph).respond 0x0000#16 errNone) := by
  have hfits : s.phase = .rd1 ∧ ph = .wr1 ∨ s.phase = .rd2 ∧ ph = .wr2 := blockAction_fits hread
  let ready : State := { s with schedule := .prm :: rest }
  let read : State := (ready.readLatch l.addr).goto ph
  let u : State := (State.readLatch l.addr { s with schedule := rest }).goto ph
  have hu : { read with schedule := rest } = u := congrArg (State.goto ph) (ready.readLatch_of_schedule l.addr rest)
  have hfirst : step s = .next read := by
    rw [step_of_schedule_prm hschedule hcmd (by grind), exec_eq_outcome, hread]
    rfl
  have hsecond : step read = .next ((BlockAction.writeLast l level).apply u) := by
    have hschedule' : read.schedule = .prm :: rest := by simp [read, ready]
    have hcmd' : decode read.cmd = .ok i := by simpa [read, ready]
    have hm : blockAction u.params i u.phase = some (.writeLast l level) := by simpa [u]
    rw [step_of_schedule_prm hschedule' hcmd' (by grind [State.goto_phase]), hu, exec_eq_outcome, hm, BlockAction.outcome]
  rw [run_succ_of_step hfirst, run_succ_of_step hsecond, BlockAction.apply]
  exact congrArg (fun t => run n (State.respond 0x0000#16 errNone t)) (State.busPoke_after_read l level ph hdevice)

end Sys2Proof.Machine
end

section

open Sys2Proof Sys2Proof.Machine

/-- Settles O35: when the second read-modify-write begins, the stored bits of the combined register are those of `OTHER`'s word
(`run_write_other`), and it changes the direction bit alone (`State.storedBit_afterRmw`). -/
theorem combinedRegisterGap : Obligations.CombinedRegisterGap := by
  intro level pin s v ops rest hlow hhigh hcmd hphase hdevice hlock hother hschedule
  have hvalid : validPin pin = true := (validPin_iff pin).mpr ⟨by omega, hhigh⟩
  obtain ⟨o, d, ho, hd, hostored, hdstored, -⟩ := stored_of_validPin s.params hvalid
  obtain ⟨-, hwr1, hrd2, hwr2⟩ := blockAction_drive level ho hd
  obtain ⟨t, x, hparams, hgap⟩ := run_write_other 2 hschedule hcmd hphase hwr1 hostored hdevice hlock hother
  let u : State :=
    { s with
      bank := (t.refPoke s.params.addrA v).bank
      phase := .rd2
      other := ops
      schedule := .prm :: .prm :: rest
      trace := s.trace ++ [⟨.prm, .poke o.addr x⟩] ++ [⟨.other, .poke s.params.addrA v⟩] }
  have hlast := run_scheduled_writeLast (s := u) 0 rfl hcmd hdevice hrd2 hwr2
  refine ⟨_, hgap.trans hlast, rfl, fun j hj => ?bits⟩
  case bits =>
    let q : BitLoc := ⟨s.params.addrA, j⟩
    have hq : q = d ↔ j = pin - 33 := by
      have hplace := hd.symm.trans ((placesOfPins s.params pin).1 hlow hhigh).2.2
      rw [Option.some.inj hplace, BitLoc.mk.injEq, and_iff_right rfl]
    have hword : u.storedBit q = v.getLsbD j := by
      have hpoked := t.bankRead_refPoke_addrA v hj
      rwa [hparams] at hpoked
    have hrmw : _ = if q = d then true else u.storedBit q :=
      State.storedBit_afterRmw (s := { u with schedule := rest }) true .wr2 hdstored q
    simp only [hq, hword] at hrmw
    exact hrmw

/-- Settles O42: the slot of the reset is `resetBlock`, which sets the registers of the block and nothing outside it. -/
theorem blockResetAbandons : Obligations.BlockResetAbandons := fun s rest hschedule =>
  ⟨resetBlock { s with schedule := rest }, step_of_schedule_cons hschedule, rfl, rfl, rfl, rfl⟩

end

section
/-! `RESP`, where the block has nothing left to do but to hold its response (41_rmw_sequencer.md R83; log entry 15). -/

open Sys2Proof Sys2Proof.Machine

/-- Settles O21: the row of every operation in `RESP` is the action `hold` (`exec_eq_outcome`), whose effect is none. -/
theorem blockHoldsResponse : Obligations.BlockHoldsResponse := by
  intro i s hresp
  have hhold : blockAction s.params i s.phase = some .hold := by rw [hresp, blockAction]
  rw [exec_eq_outcome, hhold, BlockAction.outcome, BlockAction.apply]

end
